-- ==== Sys2Proof/Word.lean ====
section
/-! DEFINITION. Word.lean: the bit-vector widths of the telegram codec (spec 00_scope.md R6, R7) and nothing else.
Integers that arrive on 32-bit ports are `Int` once a request is decoded (R8: "every value in pseudocode is a
mathematical integer unless a width is given"); only what the spec itself cuts into bits is a bit vector. -/

namespace Sys2Proof

/-- A protocol word, 16 bits unsigned (R6, WORD_W). -/
abbrev Word := BitVec 16

/-- A byte: the subindex and the page-select byte (R6, SUB_W and PAGE_W). -/
abbrev Byte := BitVec 8

/-- An IEEE 754 binary64 datum, held as its 64-bit pattern (R7 VALUE_FMT, R10, decision D6). -/
abbrev F64 := BitVec 64

/-- An IEEE 754 binary32 datum, held as its 32-bit pattern (R10 `bits32`, R65). -/
abbrev F32 := BitVec 32

end Sys2Proof
end

