-- ==== Sys2Proof/Config.lean ====
section
/-! DEFINITION. Config.lean: the implementation parameters of 00_scope.md R7 that are not widths: the contents of the
two constant tables, the miss text, and the two OPEN parameters ERR_ROM and FIXPT_TIE, which the spec leaves as model
arguments (92_eei_decisions.md D10, D14) and which are therefore opaque here: no proof can see their values. -/

namespace Sys2Proof

/-- One entry of the address-band ROM, read as {u16, u16, u16, u8} (10_state.md R26, R27; 20_memory.md R52). -/
structure Band where
  /-- Lowest parameter number of the band (inclusive). -/
  lo : BitVec 16
  /-- First parameter number above the band (exclusive). -/
  hi : BitVec 16
  /-- What is subtracted from a parameter number to give the relative parameter. -/
  offset : BitVec 16
  /-- The page-select byte of IND. -/
  page : Byte
deriving DecidableEq, Repr

/-- One entry of the error-code ROM: (u16 key, text) (10_state.md R28; 20_memory.md R52). -/
structure ErrEntry where
  key : Word
  text : String
deriving DecidableEq, Repr

/-- How `roundInt` breaks a tie (40_encoder.md R110): HALF_EVEN or HALF_AWAY. -/
inductive TieRule where
  | halfEven
  | halfAway
deriving DecidableEq, Repr, Inhabited

/-- The text of error code 0 (10_state.md R28, 90_conflicts.md C9). -/
def Config.illegalParameterText : String := "Illegal parameter number (PNU) - Parameter does not exist"

/-- UNKNOWN_TEXT, the text reported for a code the error ROM does not hold (00_scope.md R7, 90_conflicts.md C2). -/
def Config.unknownText : String := "Unknown error code"

/-- The six entries of the address-band ROM, in the spec's order (10_state.md R26). -/
def Config.bandRom : Vector Band 6 := #v[
  { lo := 0#16,     hi := 2000#16,  offset := 0#16,     page := 0x00#8 },
  { lo := 2000#16,  hi := 4000#16,  offset := 2000#16,  page := 0x80#8 },
  { lo := 4000#16,  hi := 6000#16,  offset := 4000#16,  page := 0x10#8 },
  { lo := 6000#16,  hi := 8000#16,  offset := 6000#16,  page := 0x90#8 },
  { lo := 8000#16,  hi := 10000#16, offset := 8000#16,  page := 0x20#8 },
  { lo := 60000#16, hi := 62000#16, offset := 60000#16, page := 0x74#8 }]

/-- The constraints 10_state.md R28 puts on ERR_ROM: "exactly 19 distinct keys; the keys include 0, 7 and 204; the text
at key 0 is the string above". -/
abbrev ErrRomAdmissible (rom : List ErrEntry) : Prop :=
  rom.length = 19 ∧ (rom.map (·.key)).Nodup ∧
    7#16 ∈ rom.map (·.key) ∧ 204#16 ∈ rom.map (·.key) ∧ ⟨0#16, Config.illegalParameterText⟩ ∈ rom

/-- An error-code table that meets R28. The field values written here only show Lean that such a table exists (an
opaque constant needs an inhabited type); `Config.errRom` below is opaque, so nothing can be proved from them. -/
structure AdmissibleErrRom where
  rom : List ErrEntry :=
    [⟨0#16, Config.illegalParameterText⟩, ⟨7#16, ""⟩, ⟨204#16, ""⟩, ⟨1000#16, ""⟩, ⟨1001#16, ""⟩, ⟨1002#16, ""⟩,
     ⟨1003#16, ""⟩, ⟨1004#16, ""⟩, ⟨1005#16, ""⟩, ⟨1006#16, ""⟩, ⟨1007#16, ""⟩, ⟨1008#16, ""⟩, ⟨1009#16, ""⟩,
     ⟨1010#16, ""⟩, ⟨1011#16, ""⟩, ⟨1012#16, ""⟩, ⟨1013#16, ""⟩, ⟨1014#16, ""⟩, ⟨1015#16, ""⟩]
  admissible : ErrRomAdmissible rom := by decide
deriving Inhabited

/-- ERR_ROM, the error-code table of this implementation: OPEN (00_scope.md R7, decision D14, 93 I9 and I10). All that
is known of it is R28's constraints, `Config.errRom.admissible`. -/
opaque Config.errRom : AdmissibleErrRom

/-- FIXPT_TIE, the tie rule of the fixed-point conversion: OPEN (00_scope.md R7, decision D10, 93 I11). The spec names a
default, HALF_EVEN, but leaves the choice to the implementation, so a claim must hold for either value. -/
opaque Config.fixptTie : TieRule

end Sys2Proof
end

