-- ==== Sys2Proof/Syntax.lean ====
section
/-! DEFINITION. Syntax.lean: the operations of the block, one constructor for each row of spec/opcode_table.json.
The block has no instruction set in the processor sense (00_scope.md R3): an "instruction" is one request, selected by
its `cmd` field, with the operand ports that command reads (30_encoding.md R69, R70; 10_state.md R31). -/

namespace Sys2Proof

/-- One decoded request. The `s32` ports carry "the integer itself" (30_encoding.md R71), so their operands are `Int`,
held to the port's range by `Instr.wellFormed`; the u16 ports carry words, and `value` carries a binary64 datum. -/
inductive Instr where
  /-- ENC_RD, cmd 0b00: encode a read request (40_encoder.md R120). -/
  | encRd (param ak sub : Int)
  /-- ENC_WR, cmd 0b01: encode a write request (40_encoder.md R121). -/
  | encWr (param ak sub : Int) (value : F64)
  /-- DEC, cmd 0b10: decode four words (41_decoder.md R150). -/
  | dec (pke ind pwe1 pwe2 : Word)
  /-- ERRQ, cmd 0b11: look up an error code (41_decoder.md R151). -/
  | errq (code : Int)
deriving DecidableEq, Repr

end Sys2Proof
end

