-- ==== Sys2Proof/WellFormed.lean ====
section
/-! DEFINITION. WellFormed.lean: which terms of `Instr` a request can present. The only check is the range of the
`s32` ports (10_state.md R31, 00_scope.md R8): every value of every port is admitted to its operation
(30_encoding.md R72, R77), so the range checks on `ak`, `sub` and `param` belong to the operations, not here. -/

namespace Sys2Proof

/-- The integers a 32-bit two's complement port carries: `s32` of R8, "an integer in [-2^31, 2^31-1]". -/
def fitsS32 (x : Int) : Bool := decide (-2147483648 ≤ x) && decide (x ≤ 2147483647)

/-- Every operand lies in the range of the port that carries it (R31). -/
def Instr.wellFormed : Instr → Bool
  | .encRd param ak sub => fitsS32 param && fitsS32 ak && fitsS32 sub
  | .encWr param ak sub _ => fitsS32 param && fitsS32 ak && fitsS32 sub
  | .dec _ _ _ _ => true
  | .errq code => fitsS32 code

end Sys2Proof
end

