-- ==== Sys2Proof/Decode.lean ====
section
/-! DEFINITION. Decode.lean: the request as the ports present it, the decoder from it to an `Instr`, and the encoder
back. Decoding is total and refuses nothing: "no request encoding is reserved, illegal or a hint. A request is always
decodable" (30_encoding.md R72, R77). -/

namespace Sys2Proof

/-- The request record of 10_state.md R31: the 2-bit command and every operand port. The integer ports are 32-bit
two's complement (00_scope.md R7, decision D3). -/
structure Request where
  cmd : BitVec 2
  param : BitVec 32
  ak : BitVec 32
  sub : BitVec 32
  value : F64
  pke : Word
  ind : Word
  pwe1 : Word
  pwe2 : Word
  code : BitVec 32
deriving DecidableEq, Repr

/-- Read a request: `cmd` selects the operation (R69), and each command reads its own ports and no other (R70). -/
def decode (q : Request) : Instr :=
  if q.cmd = 0b00#2 then .encRd q.param.toInt q.ak.toInt q.sub.toInt
  else if q.cmd = 0b01#2 then .encWr q.param.toInt q.ak.toInt q.sub.toInt q.value
  else if q.cmd = 0b10#2 then .dec q.pke q.ind q.pwe1 q.pwe2
  else .errq q.code.toInt

/-- A request whose ports are all zero: what the encoder fills in. -/
def Request.blank (cmd : BitVec 2) : Request :=
  { cmd := cmd, param := 0, ak := 0, sub := 0, value := 0, pke := 0, ind := 0, pwe1 := 0, pwe2 := 0, code := 0 }

/-- The request that presents an instruction (R69, R70). The ports its command does not read are driven 0
(DESIGN CHOICE, log entry 7: "Ports a command does not use are ignored", R31). -/
def encode : Instr → Request
  | .encRd param ak sub =>
    { Request.blank 0b00#2 with
      param := BitVec.ofInt 32 param, ak := BitVec.ofInt 32 ak, sub := BitVec.ofInt 32 sub }
  | .encWr param ak sub value =>
    { Request.blank 0b01#2 with
      param := BitVec.ofInt 32 param, ak := BitVec.ofInt 32 ak, sub := BitVec.ofInt 32 sub, value := value }
  | .dec pke ind pwe1 pwe2 => { Request.blank 0b10#2 with pke := pke, ind := ind, pwe1 := pwe1, pwe2 := pwe2 }
  | .errq code => { Request.blank 0b11#2 with code := BitVec.ofInt 32 code }

/-- A request read from one number of 264 bits. The opcode table places only `cmd`, at bits 1:0 with mask 0x3; where
the ports stand is the model's (DESIGN CHOICE, log entry 6): `cmd` takes the first byte, whose bits 7:2 are not
read, and the ports follow from bit 8 in the order of R31. -/
def Request.ofNat (w : Nat) : Request where
  cmd := BitVec.ofNat 2 w
  param := BitVec.ofNat 32 (w / 2 ^ 8)
  ak := BitVec.ofNat 32 (w / 2 ^ 40)
  sub := BitVec.ofNat 32 (w / 2 ^ 72)
  value := BitVec.ofNat 64 (w / 2 ^ 104)
  pke := BitVec.ofNat 16 (w / 2 ^ 168)
  ind := BitVec.ofNat 16 (w / 2 ^ 184)
  pwe1 := BitVec.ofNat 16 (w / 2 ^ 200)
  pwe2 := BitVec.ofNat 16 (w / 2 ^ 216)
  code := BitVec.ofNat 32 (w / 2 ^ 232)

/-- The same layout written out: the number `Request.ofNat` reads, with bits 7:2 zero. -/
def Request.toNat (q : Request) : Nat :=
  q.cmd.toNat + 2 ^ 8 * q.param.toNat + 2 ^ 40 * q.ak.toNat + 2 ^ 72 * q.sub.toNat + 2 ^ 104 * q.value.toNat +
    2 ^ 168 * q.pke.toNat + 2 ^ 184 * q.ind.toNat + 2 ^ 200 * q.pwe1.toNat + 2 ^ 216 * q.pwe2.toNat +
    2 ^ 232 * q.code.toNat

/-- The request in the low `nbits` bits of `w`, every bit above them 0. -/
def Request.ofWord (nbits w : Nat) : Request := Request.ofNat (w % 2 ^ nbits)

/-- The instruction the decoder reads from a number whose bits are numbered as spec/opcode_table.json numbers them. It
never answers `none`: every request decodes (R77). -/
def decodeTableWord (nbits w : Nat) : Option Instr := some (decode (Request.ofWord nbits w))

end Sys2Proof
end

