-- ==== Sys2Proof/Machine/State.lean ====
section
/-! DEFINITION. Machine/State.lean: the response records, the state, the reasons a step can stop, and the state after
reset. The block keeps nothing from one request to the next (10_state.md R20, R30); its only contents are the two
constant ROMs. The other two fields stand for the host: the requests still to come and the responses given. -/

namespace Sys2Proof.Machine

/-- The error kinds a response can carry (60_exceptions.md R170, R171, R172, R173). -/
inductive ErrorKind where
  | outOfRangeParameter
  | rangeError
  | valueError
deriving DecidableEq, Repr

/-- The `status` field of a response (10_state.md R23, 60_exceptions.md R170). -/
inductive Status where
  | ok
  | error (kind : ErrorKind)
deriving DecidableEq, Repr

/-- The numeric formats of PWE1:PWE2 (00_scope.md R16). -/
inductive Format where
  | word
  | float
  | fixpt
deriving DecidableEq, Repr

/-- The decoder's result tag (10_state.md R24, 41_decoder.md R143). -/
inductive Kind where
  | word
  | float
  | error
deriving DecidableEq, Repr

/-- Four protocol words, "ordered (PKE, IND, PWE1, PWE2)" (20_memory.md R44, 30_encoding.md R60). -/
structure Telegram where
  pke : Word
  ind : Word
  pwe1 : Word
  pwe2 : Word
deriving DecidableEq, Repr

/-- Why an encode gives no telegram: a status of R170, or the assertion of 40_encoder.md R102. -/
inductive EncodeStop where
  /-- The operation raises this status (00_scope.md R12 `raise`). -/
  | raised (kind : ErrorKind)
  /-- The relative parameter does not fit 11 bits (R102; 93_implementation_defined.md I5). -/
  | relativeTooWide
deriving DecidableEq, Repr

/-- An ENC response (10_state.md R32): a telegram, or "the error alone, with no words" (60_exceptions.md R177). -/
inductive EncResponse where
  | ok (t : Telegram)
  | error (kind : ErrorKind)
deriving DecidableEq, Repr

/-- The one payload of a DEC response; the two its kind does not select are absent (10_state.md R33). -/
inductive Payload where
  | word (w : Word)
  | float (fbits : F32)
  | error (errCode : Word) (errHit : Bool) (errText : String)
deriving DecidableEq, Repr

/-- A DEC response (10_state.md R33). Its status is always OK, so it is not stored: `Response.status`. -/
structure DecResponse where
  ak : BitVec 4
  param : BitVec 16
  raw : BitVec 11
  offset : BitVec 16
  sub : Byte
  pke : Word
  ind : Word
  pwe1 : Word
  pwe2 : Word
  payload : Payload
deriving DecidableEq, Repr

/-- An ERRQ response (10_state.md R34); its status is always OK. -/
structure ErrqResponse where
  errHit : Bool
  errText : String
deriving DecidableEq, Repr

/-- The response to one request. -/
inductive Response where
  | enc (r : EncResponse)
  | dec (r : DecResponse)
  | errq (r : ErrqResponse)
deriving DecidableEq, Repr

/-- The machine: the block's two constant ROMs, and the run it is in. -/
structure State where
  /-- The address-band ROM (10_state.md R26). -/
  bandRom : Vector Band 6
  /-- The error-code ROM (10_state.md R28). -/
  errRom : List ErrEntry
  /-- The MODEL's field: the requests of the run not yet presented, in order (70_reset_and_hazards.md R196). -/
  requests : List Request
  /-- The MODEL's field: the responses given so far, oldest first (60_exceptions.md R179, R196). -/
  responses : List Response
deriving DecidableEq, Repr

/-- Why the machine stops with a fault. No instruction raises a fault while the band ROM holds R26. -/
inductive Fault where
  /-- Raised by `step` when no request is presented: the run "ends when the response to qn has been driven"
  (70_reset_and_hazards.md R196), and one step serves one request (R194). SAFE: the machine stops. -/
  | noRequest
  /-- Raised by ENC_RD and ENC_WR when `param - offset` is not in [0, 2047]: the source's "explicit
  assertion/invariant check (adjusted value < 2048)" (40_encoder.md R102), which the hardwired band ROM never lets fire;
  a band ROM that is not R26's is to "refuse this case, never wrap it" (93_implementation_defined.md I5). SAFE. -/
  | relativeParameterTooWide
deriving DecidableEq, Repr

/-- Why the model has no meaning for a request. No arm of `exec` answers it: all four operations are modelled. -/
inductive Refusal where
  /-- Raised by `exec` for an instruction that has no meaning yet. SAFE: nothing is claimed about it. -/
  | notModelled (mnemonic : String)
deriving DecidableEq, Repr

/-- What a step of this machine answers. -/
abbrev Out := Host.Outcome State Fault Refusal

/-- After reset both ROMs hold their contents and there is nothing else (10_state.md R35, 70_reset_and_hazards.md
R190, R191). No request has been presented and no response exists (log entries 4 and 5). -/
def State.reset : State where
  bandRom := Config.bandRom
  errRom := Config.errRom.rom
  requests := []
  responses := []

end Sys2Proof.Machine
end

