-- ==== Sys2Proof/Machine/Flags.lean ====
section
/-! DEFINITION. Machine/Flags.lean: the condition indicators of a response (status, kind, err_hit) and the words its
ports are driven with. None of them is stored in the block or sticky (10_state.md R23, R24, R25). -/

namespace Sys2Proof.Machine

/-- The encoding of `status[1:0]` (60_exceptions.md R170). -/
def Status.code : Status → BitVec 2
  | .ok => 0#2
  | .error .outOfRangeParameter => 1#2
  | .error .rangeError => 2#2
  | .error .valueError => 3#2

/-- The status of an ENC response (10_state.md R32). -/
def EncResponse.status : EncResponse → Status
  | .ok _ => .ok
  | .error e => .error e

/-- The `status` field of a response; "A DEC or ERRQ response always carries status OK" (10_state.md R23). -/
def Response.status : Response → Status
  | .enc r => r.status
  | .dec _ => .ok
  | .errq _ => .ok

/-- The four words an ENC response drives: its telegram, and 0x0000 on each when status is not OK
(10_state.md R32, 60_exceptions.md R177). -/
def EncResponse.drivenWords : EncResponse → Telegram
  | .ok t => t
  | .error _ => { pke := 0#16, ind := 0#16, pwe1 := 0#16, pwe2 := 0#16 }

/-- The result kind "is chosen by AK and PWE1 only" (41_decoder.md R143). -/
def resultKind (ak : BitVec 4) (pwe1 : Word) : Kind :=
  if ak = 7#4 then .error else if pwe1 ≠ 0#16 then .float else .word

/-- The kind a payload belongs to (10_state.md R24, R33). -/
def Payload.kind : Payload → Kind
  | .word _ => .word
  | .float _ => .float
  | .error _ _ _ => .error

/-- The `kind` field of a DEC response (10_state.md R24). -/
def DecResponse.kind (r : DecResponse) : Kind := r.payload.kind

/-- The `word` output; "Hardware drives it as 0" when kind is not WORD (10_state.md R33). -/
def Payload.drivenWord : Payload → Word
  | .word w => w
  | .float _ => 0#16
  | .error _ _ _ => 0#16

/-- The `fbits` output; 0 when kind is not FLOAT (10_state.md R33). -/
def Payload.drivenFbits : Payload → F32
  | .word _ => 0#32
  | .float fbits => fbits
  | .error _ _ _ => 0#32

/-- The `err_code` output; 0 when kind is not ERROR (10_state.md R33). -/
def Payload.drivenErrCode : Payload → Word
  | .word _ => 0#16
  | .float _ => 0#16
  | .error c _ _ => c

/-- `err_hit`, which a DEC response of kind ERROR and every ERRQ response has (10_state.md R25). -/
def Response.errHit : Response → Option Bool
  | .enc _ => none
  | .dec r =>
    match r.payload with
    | .word _ => none
    | .float _ => none
    | .error _ hit _ => some hit
  | .errq r => some r.errHit

end Sys2Proof.Machine
end

