-- ==== Sys2Proof/Machine/Float.lean ====
section
/-! DEFINITION. Machine/Float.lean: the floating-point primitives of 00_scope.md R10 on bit patterns, in exact integer
arithmetic. Every finite binary64 number is a whole multiple of 2^-1074, so its magnitude is held as the natural number
`F64.mag`, counted in that unit; rounding is then one division with a tie rule. The field layouts are IEEE 754's
(PRESUMED, log entry 13: R10 and R65 mark them "from general knowledge, not in source"). -/

namespace Sys2Proof

/-- `n / d` rounded to the nearest integer; a tie goes to the even one or away from zero (40_encoder.md R110). It serves
`roundInt` and, with `halfEven`, the roundTiesToEven of R10. -/
def roundDiv (tie : TieRule) (n d : Nat) : Nat :=
  if 2 * (n % d) < d then n / d
  else if d < 2 * (n % d) then n / d + 1
  else match tie with
    | .halfEven => n / d + n / d % 2
    | .halfAway => n / d + 1

/-- The magnitude of 1.0 in units of 2^-1074, that is 2^1074 (`F64.one_eq`). It is written as a product of small powers
because Lean's elaborator does not evaluate a power whose exponent is above 256. -/
def F64.one : Nat := (2 ^ 256) ^ 4 * 2 ^ 50

/-- The subnormal unit of binary32, 2^-149, in units of 2^-1074: 2^925 (`F32.unit_eq`). -/
def F32.unit : Nat := (2 ^ 256) ^ 3 * 2 ^ 157

/-- The sign bit, bit 63: true for a negative number and for -0.0. -/
def F64.negative (v : F64) : Bool := v.getLsbD 63

/-- The biased exponent, bits 62:52. -/
def F64.expField (v : F64) : Nat := (v.extractLsb' 52 11).toNat

/-- The fraction field, bits 51:0. -/
def F64.fracField (v : F64) : Nat := (v.extractLsb' 0 52).toNat

/-- `isFinite(v)`: neither an infinity nor a NaN (R10). -/
def F64.isFinite (v : F64) : Bool := v.expField != 2047

/-- The magnitude of a finite number, in units of 2^-1074: subnormal when the exponent field is 0, else with the hidden
bit. -/
def F64.mag (v : F64) : Nat :=
  if v.expField = 0 then v.fracField else (2 ^ 52 + v.fracField) * 2 ^ (v.expField - 1)

/-- A magnitude with the sign of `v`. -/
def F64.signed (v : F64) (n : Nat) : Int := if v.negative then -(n : Int) else n

/-- `trunc(v)`: rounded toward zero to an integer (00_scope.md R9). -/
def F64.trunc (v : F64) : Int := v.signed (v.mag / F64.one)

/-- The magnitude of `v - trunc(v)`, in units of 2^-1074: exact (40_encoder.md R109). -/
def F64.fracMag (v : F64) : Nat := v.mag % F64.one

/-- `hasFraction(v)`, `v ≠ trunc(v)` (40_encoder.md R106); false for both zeros. -/
def F64.hasFraction (v : F64) : Bool := v.fracMag != 0

/-- How many bits a magnitude has above the smallest normal number `least`: 0 for a subnormal one, and otherwise the
distance of its last place from the format's subnormal unit. -/
def binade (least n : Nat) : Nat := Nat.log2 (n / least)

/-- `mulF64_RNE` on the magnitudes of finite numbers (R10): the exact product, in units of 2^-2148, rounded to 53 bits
with ties to even and gradual underflow (the smallest product with 53 bits above 2^-1074 is 2^-1022). Its one use
(40_encoder.md R109) keeps the product below 16, so overflow does not arise. -/
def F64.mulMag (a b : Nat) : Nat :=
  roundDiv .halfEven (a * b) (F64.one * 2 ^ binade (F64.one * 2 ^ 52) (a * b)) * 2 ^ binade (F64.one * 2 ^ 52) (a * b)

/-- The exponent and fraction fields of the binary32 number nearest to a magnitude `n`, as one number of possibly more
than 31 bits. Below the smallest normal number, 2^23 units, the fields are the count of units; in each binade above it
the unit doubles and the fields grow by 2^23, and a mantissa that rounds up to 2^24 carries into the exponent by
itself. -/
def F32.roundMag (n : Nat) : Nat :=
  2 ^ 23 * binade (F32.unit * 2 ^ 23) n + roundDiv .halfEven n (F32.unit * 2 ^ binade (F32.unit * 2 ^ 23) n)

/-- `toF32_RNE(v)` of a finite number: its binary32 pattern, or `none` for OVERFLOW, "when the rounded result would be
infinite" (R10). The sign is kept, on zero too (40_encoder.md R108). -/
def F64.toF32 (v : F64) : Option F32 :=
  if 0x7F800000 ≤ F32.roundMag v.mag then none
  else some (BitVec.ofNat 32 (F32.roundMag v.mag + if v.negative then 2 ^ 31 else 0))

end Sys2Proof
end

