-- ==== Sys2Proof/Machine/Operands.lean ====
section
/-! DEFINITION. Machine/Operands.lean: how an operation reads its operands: the range checks on `ak` and `sub`, the
address-band lookups in both directions, and the bit fields of PKE and IND. -/

namespace Sys2Proof.Machine

/-- `ak` is in [0,15] (40_encoder.md R112). -/
def akInRange (ak : Int) : Bool := decide (0 ≤ ak) && decide (ak ≤ 15)

/-- `sub` is in [0,255] (40_encoder.md R112). -/
def subInRange (sub : Int) : Bool := decide (0 ≤ sub) && decide (sub ≤ 255)

/-- The indices of the band ROM in the order they are tested (40_encoder.md R100). -/
def bandIndices : List (Fin 6) := [0, 1, 2, 3, 4, 5]

/-- The half-open range of a band holds `p` (40_encoder.md R100, R101). -/
def bandHolds (b : Band) (p : Int) : Bool := decide ((b.lo.toNat : Int) ≤ p) && decide (p < b.hi.toNat)

/-- `band_lookup(p)`: the lowest index whose range holds `p`, or none (40_encoder.md R100; 20_memory.md R41). -/
def bandLookup (rom : Vector Band 6) (p : Int) : Option (Fin 6) :=
  bandIndices.find? fun i => bandHolds (rom.get i) p

/-- `rev_lookup(page)`: the offset of the entry whose page byte is `page`, and 0 when no entry has it
(41_decoder.md R141). -/
def revLookup (rom : Vector Band 6) (page : Byte) : BitVec 16 :=
  match bandIndices.find? fun i => decide ((rom.get i).page = page) with
  | some i => (rom.get i).offset
  | none => 0#16

/-- `rel = p - offset` (40_encoder.md R102). -/
def relativeParameter (b : Band) (p : Int) : Int := p - b.offset.toNat

/-- AK, PKE[15:12] (41_decoder.md R140). -/
def akField (pke : Word) : BitVec 4 := pke.extractLsb' 12 4

/-- RAW, PKE[10:0]; PKE[11] is not read (41_decoder.md R140, 30_encoding.md R62). -/
def rawField (pke : Word) : BitVec 11 := pke.extractLsb' 0 11

/-- SUB, IND[15:8] (41_decoder.md R140). -/
def subField (ind : Word) : Byte := ind.extractLsb' 8 8

/-- PAGE, IND[7:0] (41_decoder.md R140). -/
def pageField (ind : Word) : Byte := ind.extractLsb' 0 8

/-- `param = raw + offset`, with no range check (41_decoder.md R142). -/
def decodedParameter (raw : BitVec 11) (offset : BitVec 16) : BitVec 16 := raw.setWidth 16 + offset

end Sys2Proof.Machine
end

