-- ==== Sys2Proof/Machine/Ops.lean ====
section
/-! DEFINITION. Machine/Ops.lean: the operations every instruction shares: taking the next request, driving a response,
raising a status, and looking up an error code. There is no trap to take and none to return from: "An error ends the
operation with a response that carries the status" (60_exceptions.md R176, R179). -/

namespace Sys2Proof.Machine

/-- The next request the host presents, and the state with it taken (70_reset_and_hazards.md R194, R196). -/
def takeRequest (s : State) : Option (Request × State) :=
  match s.requests with
  | [] => none
  | q :: rest => some (q, { s with requests := rest })

/-- `respond(r)`: end the operation and drive the response `r` (00_scope.md R12), which joins the record of the run
(60_exceptions.md R179, 70_reset_and_hazards.md R196). Nothing else changes (10_state.md R20, R29). -/
def State.respond (s : State) (r : Response) : State := { s with responses := s.responses ++ [r] }

/-- `raise S`: end the operation with a response that has the status and no telegram (00_scope.md R12;
60_exceptions.md R176, R177). "No state is saved, no mode changes, no vector is taken". -/
def raiseStatus (kind : ErrorKind) (s : State) : Out := .next (s.respond (.enc (.error kind)))

/-- End an encode: drive its telegram, raise its status, or stop at the assertion of 40_encoder.md R102. -/
def finishEncode (r : Except EncodeStop Telegram) (s : State) : Out :=
  match r with
  | .ok t => .next (s.respond (.enc (.ok t)))
  | .error (.raised kind) => raiseStatus kind s
  | .error .relativeTooWide => .fault .relativeParameterTooWide

/-- `ErrROM(code)`: the text of the entry whose key is `code`, `none` for a miss (00_scope.md R11; 20_memory.md R42). -/
def errLookup (rom : List ErrEntry) (code : Word) : Option String :=
  (rom.find? fun e => decide (e.key = code)).map (·.text)

/-- `err_hit` and `err_text` of a lookup: the ROM's text on a hit, UNKNOWN_TEXT on a miss, which "is not a failure"
(41_decoder.md R144, 10_state.md R25, R34). -/
def errReport (rom : List ErrEntry) (code : Word) : ErrqResponse :=
  match errLookup rom code with
  | some text => { errHit := true, errText := text }
  | none => { errHit := false, errText := Config.unknownText }

end Sys2Proof.Machine
end

