-- ==== Sys2Proof/Machine/Decoder.lean ====
section
/-! DEFINITION. Machine/Decoder.lean: `fieldbus_telegram_decoder`: the numeric-format interpreter and the meanings of
DEC and ERRQ (41_decoder.md). Neither ever fails. -/

namespace Sys2Proof.Machine

/-- The payload of the result kind: the error code and its text (R144), the binary32 pattern with PWE1 as its high half
(R145), or PWE2 as an unsigned word (R146). -/
def interpret (rom : List ErrEntry) (ak : BitVec 4) (pwe1 pwe2 : Word) : Payload :=
  match resultKind ak pwe1 with
  | .error => .error pwe2 (errReport rom pwe2).errHit (errReport rom pwe2).errText
  | .float => .float (pwe1 ++ pwe2)
  | .word => .word pwe2

/-- DEC as a function of the ROMs and the four words: the fields, the parameter, the echo and the payload (R150). -/
def decodeTelegram (bands : Vector Band 6) (errs : List ErrEntry) (pke ind pwe1 pwe2 : Word) : DecResponse where
  ak := akField pke
  param := decodedParameter (rawField pke) (revLookup bands (pageField ind))
  raw := rawField pke
  offset := revLookup bands (pageField ind)
  sub := subField ind
  pke := pke
  ind := ind
  pwe1 := pwe1
  pwe2 := pwe2
  payload := interpret errs (akField pke) pwe1 pwe2

/-- ERRQ as a function of the error ROM and the code: a code outside u16 is a miss, since every key is a u16 (R151). -/
def queryError (rom : List ErrEntry) (code : Int) : ErrqResponse :=
  if code < 0 ∨ 0xFFFF < code then { errHit := false, errText := Config.unknownText }
  else errReport rom (BitVec.ofInt 16 code)

/-- DEC: decode four words (R150). -/
def execDec (pke ind pwe1 pwe2 : Word) (s : State) : Out :=
  .next (s.respond (.dec (decodeTelegram s.bandRom s.errRom pke ind pwe1 pwe2)))

/-- ERRQ: look up an error code (R151). -/
def execErrq (code : Int) (s : State) : Out := .next (s.respond (.errq (queryError s.errRom code)))

end Sys2Proof.Machine
end

