-- ==== Sys2Proof/Machine/Encoder.lean ====
section
/-! DEFINITION. Machine/Encoder.lean: `fieldbus_telegram_encoder`: the bitfield packer, the numeric-format selector with
its three converters, and the meanings of ENC_RD and ENC_WR (40_encoder.md). -/

namespace Sys2Proof.Machine

/-- `pack_pke(ak, rel) = (ak << 12) | rel`, with no masking of the fields (R103). -/
def packPke (ak rel : Nat) : Word := BitVec.ofNat 16 ((ak <<< 12) ||| rel)

/-- `pack_ind(sub, page) = (sub << 8) | page` (R104). -/
def packInd (sub page : Nat) : Word := BitVec.ofNat 16 ((sub <<< 8) ||| page)

/-- The first part of both encodes, in the order of R113: the band, `ak`, `sub`, and then PKE and IND. -/
def encodeHeader (rom : Vector Band 6) (param ak sub : Int) : Except EncodeStop (Word × Word) :=
  match bandLookup rom param with
  | none => .error (.raised .outOfRangeParameter)
  | some i =>
    if akInRange ak = false then .error (.raised .rangeError)
    else if subInRange sub = false then .error (.raised .rangeError)
    else if 0 ≤ relativeParameter (rom.get i) param ∧ relativeParameter (rom.get i) param < 2048 then
      .ok (packPke ak.toNat (relativeParameter (rom.get i) param).toNat, packInd sub.toNat (rom.get i).page.toNat)
    else .error .relativeTooWide

/-- `fmt_select(p, v)`: the override parameters first, then whether the value has a fraction (R105). -/
def formatSelect (p : Int) (v : F64) : Format :=
  if p = 2051 ∨ p = 2010 then .word
  else if p = 1082 then .float
  else if p = 845 then .fixpt
  else if v.hasFraction then .float
  else .word

/-- `conv_word(v) = (0x0000, trunc(v) mod 2^16)` (R107). -/
def convWord (v : F64) : Word × Word := (0#16, BitVec.ofInt 16 v.trunc)

/-- `conv_float(v)`: the two halves of the binary32 pattern, high half first; `none` on OVERFLOW (R108, R45). -/
def convFloat (v : F64) : Option (Word × Word) :=
  match v.toF32 with
  | some r => some (r.extractLsb' 16 16, r.extractLsb' 0 16)
  | none => none

/-- `r = roundInt(t)`, `t = mulF64_RNE(fr, 10.0)`: the tenths of a fixed-point value, with the sign of `v`
(R109, R110). -/
def fixptTenths (tie : TieRule) (v : F64) : Int :=
  v.signed (roundDiv tie (F64.mulMag v.fracMag (10 * F64.one)) F64.one)

/-- `conv_fixpt(v)`: the integer part and the tenths, each modulo 2^16 (R109). -/
def convFixpt (tie : TieRule) (v : F64) : Word × Word :=
  (BitVec.ofInt 16 v.trunc, BitVec.ofInt 16 (fixptTenths tie v))

/-- PWE1 and PWE2 of a write: VALUE_ERROR for a value that is not finite (R111), else the converter the selector picks,
where FLOAT may overflow into VALUE_ERROR (R108, R121). -/
def convertValue (tie : TieRule) (p : Int) (v : F64) : Except EncodeStop (Word × Word) :=
  if v.isFinite = false then .error (.raised .valueError)
  else match formatSelect p v with
    | .word => .ok (convWord v)
    | .float =>
      match convFloat v with
      | some w => .ok w
      | none => .error (.raised .valueError)
    | .fixpt => .ok (convFixpt tie v)

/-- ENC_RD as a function of the band ROM and its operands (R120). -/
def encodeRead (rom : Vector Band 6) (param ak sub : Int) : Except EncodeStop Telegram :=
  match encodeHeader rom param ak sub with
  | .ok (pke, ind) => .ok { pke := pke, ind := ind, pwe1 := 0#16, pwe2 := 0#16 }
  | .error e => .error e

/-- ENC_WR as a function of the band ROM, the tie rule and its operands (R121). -/
def encodeWrite (rom : Vector Band 6) (tie : TieRule) (param ak sub : Int) (value : F64) : Except EncodeStop Telegram :=
  match encodeHeader rom param ak sub with
  | .ok (pke, ind) =>
    match convertValue tie param value with
    | .ok (pwe1, pwe2) => .ok { pke := pke, ind := ind, pwe1 := pwe1, pwe2 := pwe2 }
    | .error e => .error e
  | .error e => .error e

/-- ENC_RD: encode a read request (R120). -/
def execEncRd (param ak sub : Int) (s : State) : Out := finishEncode (encodeRead s.bandRom param ak sub) s

/-- ENC_WR: encode a write request (R121). -/
def execEncWr (param ak sub : Int) (value : F64) (s : State) : Out :=
  finishEncode (encodeWrite s.bandRom Config.fixptTie param ak sub value) s

end Sys2Proof.Machine
end

