-- ==== Sys2Proof/Machine/Dispatch.lean ====
section
/-! DEFINITION. Machine/Dispatch.lean: one arm for each operation of spec/opcode_table.json. -/

namespace Sys2Proof.Machine

/-- What one decoded request does (30_encoding.md R69, R77). -/
def exec (i : Instr) (s : State) : Host.Outcome State Fault Refusal :=
  match i with
  | .encRd param ak sub => Sys2Proof.Machine.execEncRd param ak sub s
  | .encWr param ak sub value => Sys2Proof.Machine.execEncWr param ak sub value s
  | .dec pke ind pwe1 pwe2 => Sys2Proof.Machine.execDec pke ind pwe1 pwe2 s
  | .errq code => Sys2Proof.Machine.execErrq code s

end Sys2Proof.Machine
end

