-- ==== Sys2Proof/Machine/Step.lean ====
section
/-! DEFINITION. Machine/Step.lean: one step serves one request (70_reset_and_hazards.md R194). -/

namespace Sys2Proof.Machine

/-- Take the next request, decode it and run it. When none is presented the run is over (R196): fault `noRequest`. -/
def step (s : State) : Host.Outcome State Fault Refusal :=
  match takeRequest s with
  | none => .fault .noRequest
  | some (q, s') => exec (decode q) s'

/-- The state in which the host presents this request next (log entry 4). -/
def State.withFetchWord (s : State) (nbits w : Nat) : State :=
  { s with requests := Request.ofWord nbits w :: s.requests }

end Sys2Proof.Machine
end

