-- ==== Sys2Proof/Safety.lean ====
section
/-! DEFINITION. Safety.lean: the terms claims are stated in: the invariant of the two ROMs, what it means that a request
is answered, what a safe run is, the parameter-number space in the spec's own numbers, and the value of a binary32
pattern. The machine uses none of them. -/

namespace Sys2Proof

/-- Both ROMs hold what the spec says they hold: the band table of 10_state.md R26, and an error table that meets
R28. No operation writes either ROM (R29), so this is an invariant of every run. -/
abbrev Machine.State.romsOk (s : Machine.State) : Prop :=
  s.bandRom = Config.bandRom ∧ ErrRomAdmissible s.errRom

/-- The instruction completes with response `r` and changes nothing but the record of responses, which it extends:
both ROMs and the requests to come stay as they were. -/
abbrev Answers (i : Instr) (s : Machine.State) (r : Machine.Response) : Prop :=
  Machine.exec i s = .next { s with responses := s.responses ++ [r] }

/-- A run is safe when every request presented is served and none of them stops the machine
(70_reset_and_hazards.md R194 "every presented request gets a response"). -/
def SafeRun (s : Machine.State) : Prop :=
  ∃ t : Machine.State, Host.Core.run Sys2Proof.core s.requests.length s = .next t ∧ t.requests = []

/-- The six bands by their first parameter number and page byte, in the spec's own numbers (10_state.md R26,
30_encoding.md R67): a band with first number `lo` holds [lo, lo + 2000) and has offset `lo`. -/
def specBands : List (Int × Byte) :=
  [(0, 0x00#8), (2000, 0x80#8), (4000, 0x10#8), (6000, 0x90#8), (8000, 0x20#8), (60000, 0x74#8)]

/-- `p` lies in the band that begins at `lo` and has page byte `page`. -/
abbrev InBand (p lo : Int) (page : Byte) : Prop := (lo, page) ∈ specBands ∧ lo ≤ p ∧ p < lo + 2000

/-- `p` lies in no band: "below 0, in [10000,60000), and 62000 or above" (20_memory.md R43). -/
abbrev Unmapped (p : Int) : Prop := p < 0 ∨ (10000 ≤ p ∧ p < 60000) ∨ 62000 ≤ p

/-- The biased exponent of a binary32 pattern, bits 30:23 (30_encoding.md R65). -/
def F32.expField (r : F32) : Nat := (r.extractLsb' 23 8).toNat

/-- The fraction field of a binary32 pattern, bits 22:0 (30_encoding.md R65). -/
def F32.fracField (r : F32) : Nat := (r.extractLsb' 0 23).toNat

/-- The sign of a binary32 pattern, bit 31 (30_encoding.md R65). -/
def F32.negative (r : F32) : Bool := r.getLsbD 31

/-- A binary32 pattern that is neither an infinity nor a NaN. -/
def F32.isFinite (r : F32) : Bool := r.expField != 255

/-- The magnitude of a finite binary32 number in the unit of `F64.mag`. -/
def F32.mag (r : F32) : Nat :=
  (if r.expField = 0 then r.fracField else (2 ^ 23 + r.fracField) * 2 ^ (r.expField - 1)) * F32.unit

end Sys2Proof
end

