-- ==== Sys2Proof/Certificates/Slice0/Obligations.lean ====
section
/-! DEFINITION. Obligations.lean: the statements for the provers, one proposition each. `Answers i s r` says that
`exec i s` is the next state in which only the response `r` was added, so every statement with it states completion and
frame together. `s.romsOk` is the invariant of the two ROMs; `StepKeepsBothRoms` and `ResetSatisfiesRomInvariant` say
that it holds of every run. Where a statement rests on a decision of the spec itself or on a choice of the model, its
docstring names it. -/

open Sys2Proof Sys2Proof.Machine

/-! ## The step, the request and its encoding -/

/-- One step takes the first request presented and is `exec` of the instruction it decodes to (70 R194; the list of
requests is the model's choice, log entry 4). -/
def Obligations.StepRunsDecodedRequest : Prop :=
  ∀ (s : State) (q : Request) (rest : List Request), s.requests = q :: rest →
    step s = exec (decode q) { s with requests := rest }

/-- A request placed by its bits is the next one served, and nothing else of the state is touched (the bit layout above
`cmd` is the model's choice, log entry 6). -/
def Obligations.PresentedWordRunsAsDecoded : Prop :=
  ∀ (s : State) (nbits w : Nat) (i : Instr), decodeTableWord nbits w = some i →
    step (s.withFetchWord nbits w) = exec i s

/-- With no request presented there is no step: the model's choice, log entry 8, from "It ends when the response to qn
has been driven" (70 R196). -/
def Obligations.EmptyRunHasNoStep : Prop :=
  ∀ s : State, s.requests = [] → step s = .fault .noRequest

/-- Words written out from the command table and the layout of log entry 6 decode to the requests they stand for
(30 R69, a numbering of the spec's own, decision D2). -/
def Obligations.WrittenWordsDecode : Prop :=
  decodeTableWord 8 0b00 = some (.encRd 0 0 0) ∧
  decodeTableWord 8 0b01 = some (.encWr 0 0 0 0) ∧
  decodeTableWord 8 0b10 = some (.dec 0 0 0 0) ∧
  decodeTableWord 8 0b11 = some (.errq 0) ∧
  decodeTableWord 264 (2 + 0x3033 * 2 ^ 168 + 0x0080 * 2 ^ 184 + 0x0005 * 2 ^ 216) =
    some (.dec 0x3033 0x0080 0x0000 0x0005) ∧
  decodeTableWord 264 (0 + 0xFFFFFFFF * 2 ^ 8 + 1 * 2 ^ 40 + 5 * 2 ^ 72) = some (.encRd (-1) 1 5) ∧
  decodeTableWord 264 (3 + 0xFFFFFFFB * 2 ^ 232) = some (.errq (-5))

/-- Decoding an encoded well-formed instruction gives it back, for every operand value a port can carry. -/
def Obligations.DecodeInvertsEncode : Prop :=
  ∀ i : Instr, i.wellFormed = true → decode (encode i) = i

/-- The same through the flat layout of log entry 6 (the model's choice): no bit of a request is lost in it, in either
direction. -/
def Obligations.FlatWordCarriesEveryRequest : Prop :=
  (∀ q : Request, q.toNat < 2 ^ 264 ∧ Request.ofNat q.toNat = q) ∧
  (∀ i : Instr, i.wellFormed = true → decodeTableWord 264 (encode i).toNat = some i)

/-- "Decoding a request is total. Every cmd value selects one operation rule, and every value of every operand port is
admitted": what is decoded is well formed, keeps its command and decodes to itself again. -/
def Obligations.DecodeIsTotalAndCanonical : Prop :=
  ∀ q : Request, (decode q).wellFormed = true ∧ (encode (decode q)).cmd = q.cmd ∧
    decode (encode (decode q)) = decode q

/-- "A port a command does not read has no effect on its response" (30 R70, decisions D3 and D24): requests that agree
on `cmd` and on the ports their command reads take the same step. -/
def Obligations.UnreadPortsHaveNoEffect : Prop :=
  ∀ (s : State) (q q' : Request) (rest : List Request), q.cmd = q'.cmd →
    (q.cmd = 0b00#2 ∨ q.cmd = 0b01#2 → q.param = q'.param ∧ q.ak = q'.ak ∧ q.sub = q'.sub) →
    (q.cmd = 0b01#2 → q.value = q'.value) →
    (q.cmd = 0b10#2 → q.pke = q'.pke ∧ q.ind = q'.ind ∧ q.pwe1 = q'.pwe1 ∧ q.pwe2 = q'.pwe2) →
    (q.cmd = 0b11#2 → q.code = q'.code) →
    step { s with requests := q :: rest } = step { s with requests := q' :: rest }

/-! ## The state: ROMs, requests and responses -/

/-- The band ROM holds the six entries at reset, and no operation changes it. -/
def Obligations.BandRomHoldsTheTable : Prop :=
  State.reset.bandRom.toList.map (fun b => (b.lo.toNat, b.hi.toNat, b.offset.toNat, b.page)) =
    [(0, 2000, 0, 0x00#8), (2000, 4000, 2000, 0x80#8), (4000, 6000, 4000, 0x10#8),
     (6000, 8000, 6000, 0x90#8), (8000, 10000, 8000, 0x20#8), (60000, 62000, 60000, 0x74#8)] ∧
  ∀ (i : Instr) (s t : State), exec i s = .next t → t.bandRom = s.bandRom

/-- After reset both ROMs hold their contents and there is nothing else. The error ROM is the open parameter ERR_ROM
under the constraints of decision D14 (log entry 2); the empty lists are the model's, log entries 4 and 5. -/
def Obligations.ResetSatisfiesRomInvariant : Prop :=
  State.reset.romsOk ∧ State.reset.requests = [] ∧ State.reset.responses = []

/-- What 10 R27 derives from the band table: offset = lo, hi − lo = 2000, disjoint ranges, distinct page bytes. -/
def Obligations.BandsAreDisjointAndPagesDistinct : Prop :=
  ∀ s : State, s.romsOk → ∀ i : Fin 6,
    (s.bandRom.get i).offset = (s.bandRom.get i).lo ∧
    (s.bandRom.get i).hi.toNat = (s.bandRom.get i).lo.toNat + 2000 ∧
    ∀ j : Fin 6, i ≠ j → (s.bandRom.get i).page ≠ (s.bandRom.get j).page ∧
      ((s.bandRom.get i).hi.toNat ≤ (s.bandRom.get j).lo.toNat ∨
        (s.bandRom.get j).hi.toNat ≤ (s.bandRom.get i).lo.toNat)

/-- No step, from any state, writes either ROM; so the invariant of the ROMs is kept. -/
def Obligations.StepKeepsBothRoms : Prop :=
  ∀ s t : State, step s = .next t →
    t.bandRom = s.bandRom ∧ t.errRom = s.errRom ∧ (s.romsOk → t.romsOk)

/-- A step that answers takes exactly one request and adds exactly one response: "A model that runs a sequence of
requests keeps every response it produced" (60 R179; the two lists are the model's, log entries 4 and 5). -/
def Obligations.StepAddsExactlyOneResponse : Prop :=
  ∀ s t : State, step s = .next t →
    ∃ (q : Request) (r : Response), s.requests = q :: t.requests ∧ t.responses = s.responses ++ [r] ∧
      Answers (decode q) { s with requests := t.requests } r

/-- The frame of ENC_RD, ENC_WR, DEC and ERRQ, in every state: nothing changes but the record, which gains one
response of the unit that served the request. -/
def Obligations.ExecChangesOnlyTheRecord : Prop :=
  ∀ (i : Instr) (s t : State), exec i s = .next t →
    t.bandRom = s.bandRom ∧ t.errRom = s.errRom ∧ t.requests = s.requests ∧
    match i with
    | .encRd _ _ _ => ∃ r, t.responses = s.responses ++ [Response.enc r]
    | .encWr _ _ _ _ => ∃ r, t.responses = s.responses ++ [Response.enc r]
    | .dec _ _ _ _ => ∃ r, t.responses = s.responses ++ [Response.dec r]
    | .errq _ => ∃ r, t.responses = s.responses ++ [Response.errq r]

/-- "every presented request gets a response" (70 R194, decision D1): while the ROMs hold their contents, a step with a
request presented always answers it. -/
def Obligations.EveryPresentedRequestIsAnswered : Prop :=
  ∀ (s : State) (q : Request) (rest : List Request), s.romsOk → s.requests = q :: rest →
    ∃ r : Response, step s = .next { s with requests := rest, responses := s.responses ++ [r] }

/-- The responses of a whole run: there is ONE function of the two ROMs and a request such that every run answers each
of its requests by that function, whatever came before (20 R54 and 70 R196, decisions D1 and D25). -/
def Obligations.RunAnswersEachRequestByItself : Prop :=
  ∃ f : Vector Band 6 → List ErrEntry → Request → Response, ∀ s : State, s.romsOk →
    Host.Core.run Sys2Proof.core s.requests.length s =
      .next { s with requests := [], responses := s.responses ++ s.requests.map (f s.bandRom s.errRom) }

/-- Every run from a state whose ROMs hold their contents is safe: each request is served, none stops the machine. -/
def Obligations.EveryRunIsSafe : Prop := ∀ s : State, s.romsOk → SafeRun s

/-! ## The band mux and the packer -/

/-- `band_lookup` returns the band whose half-open range holds `p`, and `none` for a number no band holds. -/
def Obligations.BandLookupFindsTheBand : Prop :=
  ∀ (s : State) (p : Int), s.romsOk →
    (∀ i : Fin 6, bandLookup s.bandRom p = some i ↔
      ((s.bandRom.get i).lo.toNat : Int) ≤ p ∧ p < (s.bandRom.get i).hi.toNat) ∧
    (bandLookup s.bandRom p = none ↔ Unmapped p)

/-- The law the spec derives as 40 R102: the relative parameter is in [0, 1999], so the assertion can never fire, and no
operation faults. -/
def Obligations.RelativeParameterAlwaysFits : Prop :=
  ∀ s : State, s.romsOk →
    (∀ (p : Int) (i : Fin 6), bandLookup s.bandRom p = some i →
      0 ≤ relativeParameter (s.bandRom.get i) p ∧ relativeParameter (s.bandRom.get i) p ≤ 1999) ∧
    ∀ (i : Instr) (f : Fault), exec i s ≠ .fault f

/-- ENC_RD completes on every mapped parameter with `ak` and `sub` in range: the telegram, each word by arithmetic. -/
def Obligations.EncRdGivesTheTelegram : Prop :=
  ∀ (s : State) (p ak sub lo : Int) (page : Byte), s.romsOk → InBand p lo page →
    0 ≤ ak → ak ≤ 15 → 0 ≤ sub → sub ≤ 255 →
    Answers (.encRd p ak sub) s (.enc (.ok
      { pke := BitVec.ofInt 16 (ak * 4096 + (p - lo)), ind := BitVec.ofInt 16 (sub * 256 + page.toNat),
        pwe1 := 0x0000#16, pwe2 := 0x0000#16 }))

/-- Both encodes raise OUT_OF_RANGE_PARAMETER exactly on a parameter in no band, whatever the other operands, and DEC and
ERRQ raise it on nothing. That this check decides the status of a request bad in several operands is the spec's own
decision D11 (40 R113, log entry 14); that every DEC and ERRQ response has status OK is 10 R23 and R34. -/
def Obligations.UnmappedParameterIsOutOfRange : Prop :=
  ∀ (s : State) (p ak sub : Int) (v : F64), s.romsOk →
    (Unmapped p → Answers (.encRd p ak sub) s (.enc (.error .outOfRangeParameter)) ∧
      Answers (.encWr p ak sub v) s (.enc (.error .outOfRangeParameter))) ∧
    (Answers (.encRd p ak sub) s (.enc (.error .outOfRangeParameter)) → Unmapped p) ∧
    (Answers (.encWr p ak sub v) s (.enc (.error .outOfRangeParameter)) → Unmapped p) ∧
    (∀ (pke ind pwe1 pwe2 : Word) (r : Response), Answers (.dec pke ind pwe1 pwe2) s r → r.status = .ok) ∧
    (∀ (code : Int) (r : Response), Answers (.errq code) s r → r.status = .ok)

/-- Both encodes raise RANGE_ERROR on a mapped parameter with `ak` or `sub` out of range (40 R112 and 60 R172, the
spec's own decisions D4 and D5), whatever the value: that this check precedes the checks of the value is decision D11
(40 R113, log entry 14). -/
def Obligations.AkOrSubOutOfRangeIsRangeError : Prop :=
  ∀ (s : State) (p ak sub : Int) (v : F64), s.romsOk → ¬ Unmapped p →
    (ak < 0 ∨ 15 < ak ∨ sub < 0 ∨ 255 < sub) →
    Answers (.encRd p ak sub) s (.enc (.error .rangeError)) ∧
    Answers (.encWr p ak sub v) s (.enc (.error .rangeError))

/-- The first failing check decides the status, for every operand of either encode (40 R113, the spec's own decision
D11). -/
def Obligations.FirstFailingCheckDecides : Prop :=
  ∀ (s : State) (p ak sub : Int) (v : F64), s.romsOk →
    (∃ r, Answers (.encRd p ak sub) s (.enc r) ∧ r.status =
      if Unmapped p then .error .outOfRangeParameter
      else if ¬ (0 ≤ ak ∧ ak ≤ 15) then .error .rangeError
      else if ¬ (0 ≤ sub ∧ sub ≤ 255) then .error .rangeError
      else .ok) ∧
    (∃ r, Answers (.encWr p ak sub v) s (.enc r) ∧ r.status =
      if Unmapped p then .error .outOfRangeParameter
      else if ¬ (0 ≤ ak ∧ ak ≤ 15) then .error .rangeError
      else if ¬ (0 ≤ sub ∧ sub ≤ 255) then .error .rangeError
      else if v.isFinite = false then .error .valueError
      else if formatSelect p v = .float ∧ v.toF32 = none then .error .valueError
      else .ok)

/-- A response whose status is not OK drives its four words 0x0000 (10 R32 and 60 R177, the spec's own decision D12). -/
def Obligations.FailedEncodeDrivesZeroWords : Prop :=
  ∀ r : EncResponse, r.status ≠ .ok → r.drivenWords = { pke := 0#16, ind := 0#16, pwe1 := 0#16, pwe2 := 0#16 }

/-! ## ENC_WR: the format and the value -/

/-- ENC_WR completes in the WORD format: forced at 2051 and 2010 whatever the fraction, and by default on a finite value
without one. PWE2 is the truncated value modulo 2^16 (truncation toward zero is the spec's own decision D30). -/
def Obligations.EncWrGivesTheWordTelegram : Prop :=
  ∀ (s : State) (p ak sub lo : Int) (page : Byte) (v : F64), s.romsOk → InBand p lo page →
    0 ≤ ak → ak ≤ 15 → 0 ≤ sub → sub ≤ 255 → v.isFinite = true →
    (p = 2051 ∨ p = 2010 ∨ (p ≠ 1082 ∧ p ≠ 845 ∧ v.hasFraction = false)) →
    Answers (.encWr p ak sub v) s (.enc (.ok
      { pke := BitVec.ofInt 16 (ak * 4096 + (p - lo)), ind := BitVec.ofInt 16 (sub * 256 + page.toNat),
        pwe1 := 0x0000#16, pwe2 := BitVec.ofInt 16 v.trunc }))

/-- ENC_WR completes in the FLOAT format: forced at 1082, and by default on a finite value with a fraction, when its
binary32 rounding does not overflow. PWE1 and PWE2 are the two halves of the pattern, the high half first (rounding and
overflow are the spec's own decision D8). -/
def Obligations.EncWrGivesTheFloatTelegram : Prop :=
  ∀ (s : State) (p ak sub lo : Int) (page : Byte) (v : F64) (b : F32), s.romsOk → InBand p lo page →
    0 ≤ ak → ak ≤ 15 → 0 ≤ sub → sub ≤ 255 → v.isFinite = true →
    (p = 1082 ∨ (p ≠ 2051 ∧ p ≠ 2010 ∧ p ≠ 845 ∧ v.hasFraction = true)) → v.toF32 = some b →
    Answers (.encWr p ak sub v) s (.enc (.ok
      { pke := BitVec.ofInt 16 (ak * 4096 + (p - lo)), ind := BitVec.ofInt 16 (sub * 256 + page.toNat),
        pwe1 := BitVec.ofNat 16 (b.toNat / 65536), pwe2 := BitVec.ofNat 16 (b.toNat % 65536) }))

/-- ENC_WR completes in the FIXPT format at 845 on every finite value: the integer part and the rounded tenths, each
modulo 2^16, with IND's page byte 0 and PKE's relative parameter 845 (the arithmetic is the spec's own decision D9, the
tie rule the open parameter FIXPT_TIE, log entry 3). -/
def Obligations.EncWrGivesTheFixedPointTelegram : Prop :=
  ∀ (s : State) (ak sub : Int) (v : F64), s.romsOk → 0 ≤ ak → ak ≤ 15 → 0 ≤ sub → sub ≤ 255 → v.isFinite = true →
    Answers (.encWr 845 ak sub v) s (.enc (.ok
      { pke := BitVec.ofInt 16 (ak * 4096 + 845), ind := BitVec.ofInt 16 (sub * 256),
        pwe1 := BitVec.ofInt 16 v.trunc, pwe2 := BitVec.ofInt 16 (fixptTenths Config.fixptTie v) }))

/-- ENC_WR raises VALUE_ERROR, with param, `ak` and `sub` in range, on a value that is not finite, and on one that goes
FLOAT and overflows binary32 (40 R111 and R108, the spec's own decisions D7 and D8). -/
def Obligations.UnwritableValueIsValueError : Prop :=
  ∀ (s : State) (p ak sub : Int) (v : F64), s.romsOk → ¬ Unmapped p →
    0 ≤ ak → ak ≤ 15 → 0 ≤ sub → sub ≤ 255 →
    (v.isFinite = false ∨
      (v.toF32 = none ∧ (p = 1082 ∨ (p ≠ 2051 ∧ p ≠ 2010 ∧ p ≠ 845 ∧ v.hasFraction = true)))) →
    Answers (.encWr p ak sub v) s (.enc (.error .valueError))

/-- "The AK value never affects PWE1, PWE2, IND or the format choice. It only fills PKE[15:12]" (40 R122, derived by the
spec): two writes that differ in `ak` alone, both in range, get responses that differ in PKE[15:12] alone. -/
def Obligations.AkFillsOnlyItsNibble : Prop :=
  ∀ (s : State) (p ak ak' sub : Int) (v : F64) (r r' : EncResponse), s.romsOk →
    0 ≤ ak → ak ≤ 15 → 0 ≤ ak' → ak' ≤ 15 →
    Answers (.encWr p ak sub v) s (.enc r) → Answers (.encWr p ak' sub v) s (.enc r') →
    r.status = r'.status ∧ r.drivenWords.ind = r'.drivenWords.ind ∧
    r.drivenWords.pwe1 = r'.drivenWords.pwe1 ∧ r.drivenWords.pwe2 = r'.drivenWords.pwe2 ∧
    r.drivenWords.pke.extractLsb' 0 12 = r'.drivenWords.pke.extractLsb' 0 12

/-- The four laws of every OK response of ENC_RD and ENC_WR (40 R123, derived by the spec). -/
def Obligations.EveryEncodedTelegramObeysTheLaws : Prop :=
  ∀ (s : State) (i : Instr) (p ak sub : Int) (t : Telegram), s.romsOk →
    (i = .encRd p ak sub ∨ ∃ v, i = .encWr p ak sub v) → Answers i s (.enc (.ok t)) →
    t.pke.getLsbD 11 = false ∧
    ∃ (lo : Int) (page : Byte), InBand p lo page ∧ ((t.pke.toNat % 2048 : Nat) : Int) = p - lo ∧
      ((t.pke.toNat / 4096 : Nat) : Int) = ak ∧
      t.ind.toNat % 256 = page.toNat ∧ ((t.ind.toNat / 256 : Nat) : Int) = sub

/-! ## The numeric primitives

`F64.mag` counts in units of 2^-1074, and `F64.one` is the magnitude of 1.0, 2^1074 of them. -/

/-- `trunc` drops the fraction toward zero: it is the integer of the value's sign whose magnitude is the largest not
above the value's (40 R107, decision D30). -/
def Obligations.TruncDropsTheFraction : Prop :=
  ∀ v : F64, v.trunc.natAbs * F64.one ≤ v.mag ∧ v.mag < (v.trunc.natAbs + 1) * F64.one ∧
    (v.negative = true → v.trunc ≤ 0) ∧ (v.negative = false → 0 ≤ v.trunc)

/-- `hasFraction` is false exactly on the whole numbers, among them both zeros and every finite value of magnitude 2^52
or more (40 R106, decision D29). -/
def Obligations.FractionExactlyOfNonIntegers : Prop :=
  ∀ v : F64, (v.hasFraction = false ↔ ∃ n : Nat, v.mag = n * F64.one) ∧
    (v.isFinite = true → 2 ^ 52 * F64.one ≤ v.mag → v.hasFraction = false)

/-- binary32 overflow "holds exactly when |v| ≥ 2^128 − 2^103" (40 R108, general knowledge the spec marks, G4). -/
def Obligations.Binary32OverflowThreshold : Prop :=
  ∀ v : F64, v.isFinite = true → (v.toF32 = none ↔ (2 ^ 128 - 2 ^ 103) * F64.one ≤ v.mag)

/-- `toF32_RNE` is correctly rounded: the result is finite, has the sign of the value, is at least as near to it as any
finite binary32 number, and where another is equally near its last bit is 0 (00 R10 and 40 R108: roundTiesToEven with
gradual underflow, decision D8). -/
def Obligations.Binary32RoundingIsNearestEven : Prop :=
  ∀ (v : F64) (b : F32), v.isFinite = true → v.toF32 = some b →
    b.isFinite = true ∧ b.negative = v.negative ∧
    ∀ m : F32, m.isFinite = true →
      ((b.mag : Int) - v.mag).natAbs ≤ ((m.mag : Int) - v.mag).natAbs ∧
      (m.mag ≠ b.mag → ((b.mag : Int) - v.mag).natAbs = ((m.mag : Int) - v.mag).natAbs → b.getLsbD 0 = false)

/-- A value that binary32 represents exactly converts to its own pattern, the sign of zero included (40 R108). -/
def Obligations.Binary32ValuesConvertExactly : Prop :=
  ∀ (v : F64) (b : F32), b.isFinite = true → v.negative = b.negative → v.mag = b.mag → v.toF32 = some b

/-- `roundInt` (40 R110, decision D10): the result is within half of the quotient, and a tie goes to the even integer or
away from zero as the rule says. -/
def Obligations.RoundDivIsNearestWithTies : Prop :=
  ∀ (tie : TieRule) (n d : Nat), 0 < d →
    2 * n ≤ (2 * roundDiv tie n d + 1) * d ∧ 2 * roundDiv tie n d * d ≤ 2 * n + d ∧
    (2 * (n % d) = d → tie = .halfEven → roundDiv tie n d % 2 = 0) ∧
    (2 * (n % d) = d → tie = .halfAway → 2 * roundDiv tie n d * d = 2 * n + d)

/-- The fraction of a finite binary64 number is itself a binary64 number (40 R109 "exact", general knowledge the spec
marks, G7): one multiply by 1.0, rounded, gives it back. -/
def Obligations.FractionIsExact : Prop :=
  ∀ v : F64, v.isFinite = true → F64.mulMag v.fracMag F64.one = v.fracMag

/-- "r lies in [−10, 10]", with the sign of the value, and "A fraction of 0.95 or more gives r = 10", under either tie
rule (40 R109, decision D9). -/
def Obligations.FixedPointTenthsAreBounded : Prop :=
  ∀ (tie : TieRule) (v : F64), v.isFinite = true →
    (fixptTenths tie v).natAbs ≤ 10 ∧
    (v.negative = true → fixptTenths tie v ≤ 0) ∧ (v.negative = false → 0 ≤ fixptTenths tie v) ∧
    (19 * F64.one ≤ 20 * v.fracMag → (fixptTenths tie v).natAbs = 10)

/-! ## DEC and ERRQ -/

/-- DEC completes in every state on every four words: the fields of PKE and IND by arithmetic, bit 11 of PKE in none of
them, the offset by the page byte, and the four words echoed. -/
def Obligations.DecExtractsTheFields : Prop :=
  ∀ (s : State) (pke ind pwe1 pwe2 : Word), ∃ r : DecResponse, Answers (.dec pke ind pwe1 pwe2) s (.dec r) ∧
    r.ak.toNat = pke.toNat / 4096 ∧ r.raw.toNat = pke.toNat % 2048 ∧ r.sub.toNat = ind.toNat / 256 ∧
    r.offset = revLookup s.bandRom (BitVec.ofNat 8 (ind.toNat % 256)) ∧
    r.pke = pke ∧ r.ind = ind ∧ r.pwe1 = pwe1 ∧ r.pwe2 = pwe2

/-- The reverse lookup: each of the six page bytes gives its band's offset, and every other byte gives 0. -/
def Obligations.ReverseLookupByPage : Prop :=
  ∀ (s : State) (page : Byte), s.romsOk →
    (revLookup s.bandRom page).toNat =
      if page = 0x00#8 then 0 else if page = 0x80#8 then 2000 else if page = 0x10#8 then 4000
      else if page = 0x90#8 then 6000 else if page = 0x20#8 then 8000 else if page = 0x74#8 then 60000 else 0

/-- The decoded parameter is raw + offset with no range check, at most 62047 (41 R142, decision D27). -/
def Obligations.DecodedParameterIsRawPlusOffset : Prop :=
  ∀ (s : State) (pke ind pwe1 pwe2 : Word), s.romsOk → ∃ r : DecResponse,
    Answers (.dec pke ind pwe1 pwe2) s (.dec r) ∧
    r.param.toNat = r.raw.toNat + r.offset.toNat ∧ r.param.toNat ≤ 62047

/-- The result kind is chosen by AK and PWE1 only, whatever the ROMs hold and whatever IND and PWE2 are. -/
def Obligations.KindByAkAndPwe1 : Prop :=
  ∀ (s : State) (pke ind pwe1 pwe2 : Word), ∃ r : DecResponse, Answers (.dec pke ind pwe1 pwe2) s (.dec r) ∧
    r.kind = if pke.toNat / 4096 = 7 then .error else if pwe1.toNat ≠ 0 then .float else .word

/-- The error path: PWE2 is the code, PWE1 is ignored, a key of the error ROM hits with its text, any other code gives
UNKNOWN_TEXT, and the status is OK either way (41 R144). The exact miss text is the choice of decision D16 and conflict
C2 between two spellings (log entry 15). -/
def Obligations.ErrorPathLooksUpPwe2 : Prop :=
  ∀ (s : State) (pke ind pwe1 pwe2 : Word), pke.toNat / 4096 = 7 →
    ∃ (r : DecResponse) (hit : Bool) (text : String), Answers (.dec pke ind pwe1 pwe2) s (.dec r) ∧
      r.payload = .error pwe2 hit text ∧ (Response.dec r).status = .ok ∧
      (hit = true ↔ pwe2 ∈ s.errRom.map (·.key)) ∧
      (hit = true → (⟨pwe2, text⟩ : ErrEntry) ∈ s.errRom) ∧
      (hit = false → text = "Unknown error code") ∧
      ∀ pwe1' : Word, ∃ r' : DecResponse, Answers (.dec pke ind pwe1' pwe2) s (.dec r') ∧ r'.payload = r.payload

/-- The word path: with AK not 7 and PWE1 zero, PWE2 is reported as an unsigned 16-bit word. -/
def Obligations.WordPathReportsPwe2 : Prop :=
  ∀ (s : State) (pke ind pwe1 pwe2 : Word), pke.toNat / 4096 ≠ 7 → pwe1 = 0#16 →
    ∃ r : DecResponse, Answers (.dec pke ind pwe1 pwe2) s (.dec r) ∧ r.payload = .word pwe2

/-- The float path: with AK not 7 and PWE1 not zero, the payload is the 32-bit pattern with PWE1 as its high half, for
every pattern (41 R145, decision D17). -/
def Obligations.FloatPathKeepsThePattern : Prop :=
  ∀ (s : State) (pke ind pwe1 pwe2 : Word), pke.toNat / 4096 ≠ 7 → pwe1 ≠ 0#16 →
    ∃ (r : DecResponse) (b : F32), Answers (.dec pke ind pwe1 pwe2) s (.dec r) ∧ r.payload = .float b ∧
      b.toNat = pwe1.toNat * 65536 + pwe2.toNat

/-- DEC does not read bit 11 of PKE: setting it changes nothing of the response but the echoed word (30 R62). -/
def Obligations.DecIgnoresPkeBitEleven : Prop :=
  ∀ (s : State) (pke ind pwe1 pwe2 : Word) (r : DecResponse), Answers (.dec pke ind pwe1 pwe2) s (.dec r) →
    Answers (.dec (pke ||| 0x0800#16) ind pwe1 pwe2) s (.dec { r with pke := pke ||| 0x0800#16 })

/-- err_hit is 1 exactly on a key of the error ROM: in every DEC response of kind ERROR, for its error code, and in
every ERRQ response, for the code asked. A miss reports "Unknown error code" with status OK: that text is the choice of
decision D16 and conflict C2 between two spellings (log entry 15), and that a code outside u16 misses is decision D20
(log entry 14). -/
def Obligations.ErrHitExactlyOnKeys : Prop :=
  ∀ s : State,
    (∀ (pke ind pwe1 pwe2 : Word) (r : DecResponse), Answers (.dec pke ind pwe1 pwe2) s (.dec r) → r.kind = .error →
      (Response.dec r).errHit = some (decide (∃ e ∈ s.errRom, e.key = r.payload.drivenErrCode)) ∧
      (∀ (c : Word) (text : String), r.payload = .error c false text → text = "Unknown error code") ∧
      (Response.dec r).status = .ok) ∧
    (∀ (code : Int) (r : Response), Answers (.errq code) s r →
      r.errHit = some (decide (∃ e ∈ s.errRom, (e.key.toNat : Int) = code)) ∧
      (∀ text : String, r = .errq { errHit := false, errText := text } → text = "Unknown error code") ∧
      r.status = .ok)

/-- ERRQ completes in every state on every code: the text of an entry with that key, and UNKNOWN_TEXT where there is
none, as there is for no code outside [0, 65535] (41 R151, decision D20, log entry 14). The exact miss text "Unknown
error code" is the choice of decision D16 and conflict C2 between two spellings (log entry 15). -/
def Obligations.ErrqReportsTheText : Prop :=
  ∀ (s : State) (code : Int), ∃ (hit : Bool) (text : String),
    Answers (.errq code) s (.errq { errHit := hit, errText := text }) ∧
    (hit = true → ∃ e ∈ s.errRom, (e.key.toNat : Int) = code ∧ e.text = text) ∧
    (hit = false → text = "Unknown error code" ∧ ∀ e ∈ s.errRom, (e.key.toNat : Int) ≠ code) ∧
    (code < 0 ∨ 65535 < code → hit = false)

/-- "Keys 0, 7 and 204 hit under every admissible ERR_ROM", and key 0 gives the text the source quotes (41 R151;
ERR_ROM's constraints are decision D14, log entry 2). -/
def Obligations.KnownErrorCodesHit : Prop :=
  ∀ s : State, s.romsOk →
    Answers (.errq 0) s (.errq
      { errHit := true, errText := "Illegal parameter number (PNU) - Parameter does not exist" }) ∧
    (∃ text, Answers (.errq 7) s (.errq { errHit := true, errText := text })) ∧
    (∃ text, Answers (.errq 204) s (.errq { errHit := true, errText := text }))

/-! ## Whole-machine laws -/

/-- DEC and ERRQ "read only their operands and the ROMs, so equal requests give equal responses": in any two states with
the same ROMs the response is the same, and asking twice in a row gives it twice. -/
def Obligations.DecodingIsIdempotent : Prop :=
  ∀ (i : Instr) (s : State), (∃ pke ind pwe1 pwe2, i = .dec pke ind pwe1 pwe2) ∨ (∃ code, i = .errq code) →
    ∃ r : Response,
      (∀ s' : State, s'.bandRom = s.bandRom → s'.errRom = s.errRom → Answers i s' r) ∧
      ∃ t : State, exec i s = .next t ∧ exec i t = .next { s with responses := s.responses ++ [r, r] }

/-- "DEC of those four words gives back param = p, ak = ak and sub = sub", for the words of any ENC_RD or ENC_WR that
encodes (41 R152, derived by the spec; 90 C6 gives it for every member of a band). -/
def Obligations.DecodeAfterEncodeGivesBackTheParameter : Prop :=
  ∀ (s : State) (i : Instr) (p ak sub : Int) (t : Telegram), s.romsOk →
    (i = .encRd p ak sub ∨ ∃ v, i = .encWr p ak sub v) → Answers i s (.enc (.ok t)) →
    ∃ r : DecResponse, Answers (.dec t.pke t.ind t.pwe1 t.pwe2) s (.dec r) ∧
      (r.param.toNat : Int) = p ∧ (r.ak.toNat : Int) = ak ∧ (r.sub.toNat : Int) = sub

/-- What DEC reads back of a WORD write: the truncated value modulo 2^16, so an integer in [0, 65535] exactly (41 R153,
derived by the spec; with AK 7 every telegram reads as an error, R143, so AK 7 stands apart). -/
def Obligations.WordWriteReadsBackModulo : Prop :=
  ∀ (s : State) (p ak sub : Int) (v : F64) (t : Telegram), s.romsOk → ak ≠ 7 → formatSelect p v = .word →
    Answers (.encWr p ak sub v) s (.enc (.ok t)) →
    ∃ (r : DecResponse) (w : Word), Answers (.dec t.pke t.ind t.pwe1 t.pwe2) s (.dec r) ∧ r.payload = .word w ∧
      (w.toNat : Int) = v.trunc % 65536 ∧
      (∀ n : Nat, n ≤ 65535 → v.negative = false → v.mag = n * F64.one → w.toNat = n)

/-- What DEC reads back of a FLOAT write: the pattern itself when its high half is not zero, and otherwise a WORD, the
source's "known ambiguity" (41 R153, derived by the spec; AK 7 apart). -/
def Obligations.FloatWriteReadsBackUnlessHighHalfZero : Prop :=
  ∀ (s : State) (p ak sub : Int) (v : F64) (b : F32) (t : Telegram), s.romsOk → ak ≠ 7 →
    formatSelect p v = .float → v.toF32 = some b → Answers (.encWr p ak sub v) s (.enc (.ok t)) →
    ∃ r : DecResponse, Answers (.dec t.pke t.ind t.pwe1 t.pwe2) s (.dec r) ∧
      r.payload = if b.toNat < 65536 then .word (BitVec.ofNat 16 b.toNat) else .float b

/-- What DEC reads back of a FIXPT write: FLOAT when the integer part is not 0 modulo 2^16, else WORD: never the value
(41 R153, derived by the spec; AK 7 apart). -/
def Obligations.FixedPointWriteReadsBackAsFloatOrWord : Prop :=
  ∀ (s : State) (ak sub : Int) (v : F64) (t : Telegram), s.romsOk → ak ≠ 7 →
    Answers (.encWr 845 ak sub v) s (.enc (.ok t)) →
    ∃ r : DecResponse, Answers (.dec t.pke t.ind t.pwe1 t.pwe2) s (.dec r) ∧
      (v.trunc % 65536 = 0 → r.payload = .word (BitVec.ofInt 16 (fixptTenths Config.fixptTie v))) ∧
      (v.trunc % 65536 ≠ 0 → ∃ b : F32, r.payload = .float b ∧
        (b.toNat : Int) = v.trunc % 65536 * 65536 + fixptTenths Config.fixptTie v % 65536)
end

