-- ==== Sys2Proof/Laws/State.lean ====
section
/-! SUPPORT. Laws/State.lean: what each field of the state is after each update, and at reset. -/

namespace Sys2Proof.Machine

@[simp] theorem respond_bandRom (s : State) (r : Response) : (s.respond r).bandRom = s.bandRom := rfl
@[simp] theorem respond_errRom (s : State) (r : Response) : (s.respond r).errRom = s.errRom := rfl
@[simp] theorem respond_requests (s : State) (r : Response) : (s.respond r).requests = s.requests := rfl
@[simp] theorem respond_responses (s : State) (r : Response) : (s.respond r).responses = s.responses ++ [r] := rfl

@[simp] theorem withFetchWord_bandRom (s : State) (nbits w : Nat) : (s.withFetchWord nbits w).bandRom = s.bandRom := rfl
@[simp] theorem withFetchWord_errRom (s : State) (nbits w : Nat) : (s.withFetchWord nbits w).errRom = s.errRom := rfl
@[simp] theorem withFetchWord_responses (s : State) (nbits w : Nat) :
    (s.withFetchWord nbits w).responses = s.responses := rfl
@[simp] theorem withFetchWord_requests (s : State) (nbits w : Nat) :
    (s.withFetchWord nbits w).requests = Request.ofWord nbits w :: s.requests := rfl

@[simp] theorem reset_bandRom : State.reset.bandRom = Config.bandRom := rfl
@[simp] theorem reset_errRom : State.reset.errRom = Config.errRom.rom := rfl
@[simp] theorem reset_requests : State.reset.requests = [] := rfl
@[simp] theorem reset_responses : State.reset.responses = [] := rfl

/-- A response names the state it leads to: two answers from one state agree exactly when the responses do. -/
theorem respond_injective (s : State) {r r' : Response} (h : s.respond r = s.respond r') : r = r' := by
  have := congrArg State.responses h
  simpa using this

end Sys2Proof.Machine
end

