-- ==== Sys2Proof/Laws/Ops.lean ====
section
/-! SUPPORT. Laws/Ops.lean: one lemma for each shared operation, saying once everything it can do. Proofs about an
instruction cite these and do not unfold the operation. -/

namespace Sys2Proof.Machine

/-- The only request `takeRequest` can take is the first, and taking it changes no other field. -/
theorem takeRequest_eq_some {s s' : State} {q : Request} :
    takeRequest s = some (q, s') ↔ s.requests = q :: s'.requests ∧ s' = { s with requests := s'.requests } := by
  unfold takeRequest
  constructor
  · intro h
    split at h
    · cases h
    · next q' rest hs =>
      cases h
      exact ⟨hs, rfl⟩
  · rintro ⟨h, h'⟩
    rw [h]
    simp only [Option.some.injEq, Prod.mk.injEq, true_and]
    exact h'.symm

/-- A step that answers ran the first request presented. -/
theorem step_next_cases {s t : State} (h : step s = .next t) :
    ∃ q rest, s.requests = q :: rest ∧ exec (decode q) { s with requests := rest } = .next t := by
  unfold step at h
  split at h
  · cases h
  · next q s' hq =>
    obtain ⟨h1, h2⟩ := takeRequest_eq_some.1 hq
    exact ⟨q, s'.requests, h1, h2 ▸ h⟩

/-- What ends an encode with a next state: a telegram or a raised status, and only the record grows. -/
theorem finishEncode_next_iff {r : Except EncodeStop Telegram} {s t : State} :
    finishEncode r s = .next t ↔
      (∃ tg, r = .ok tg ∧ t = s.respond (.enc (.ok tg))) ∨
      (∃ k, r = .error (.raised k) ∧ t = s.respond (.enc (.error k))) := by
  rcases r with (k | _) | tg <;> simp [finishEncode, raiseStatus, eq_comm]

/-- An encode faults only at the assertion on the relative parameter. -/
theorem finishEncode_fault_iff {r : Except EncodeStop Telegram} {s : State} {f : Fault} :
    finishEncode r s = .fault f ↔ r = .error .relativeTooWide ∧ f = .relativeParameterTooWide := by
  rcases r with (k | _) | tg <;> simp [finishEncode, raiseStatus, eq_comm]

theorem bandHolds_iff {b : Band} {p : Int} : bandHolds b p = true ↔ (b.lo.toNat : Int) ≤ p ∧ p < b.hi.toNat := by
  simp [bandHolds]

/-- A band that is found holds the parameter, in any band ROM. -/
theorem bandLookup_some_holds {rom : Vector Band 6} {p : Int} {i : Fin 6} (h : bandLookup rom p = some i) :
    bandHolds (rom.get i) p = true := List.find?_some (p := fun i => bandHolds (rom.get i) p) h

/-- No band is found exactly when no entry holds the parameter. -/
theorem bandLookup_none_iff {rom : Vector Band 6} {p : Int} :
    bandLookup rom p = none ↔ ∀ i : Fin 6, bandHolds (rom.get i) p = false := by
  have hmem : ∀ i : Fin 6, i ∈ bandIndices := by decide
  simp [bandLookup, List.find?_eq_none, hmem]

/-- The error ROM is searched by content: a hit is the text of an entry with that key. -/
theorem errLookup_some_mem {rom : List ErrEntry} {code : Word} {text : String} (h : errLookup rom code = some text) :
    (⟨code, text⟩ : ErrEntry) ∈ rom := by
  unfold errLookup at h
  obtain ⟨e, he, rfl⟩ := Option.map_eq_some_iff.1 h
  have hk : e.key = code := by simpa using List.find?_some he
  exact hk ▸ List.mem_of_find?_eq_some he

/-- A miss means that no entry has the key. -/
theorem errLookup_none_iff {rom : List ErrEntry} {code : Word} :
    errLookup rom code = none ↔ ∀ e ∈ rom, e.key ≠ code := by
  simp [errLookup, List.find?_eq_none]

/-- The report of a lookup: a hit with an entry's text, or a miss with UNKNOWN_TEXT. -/
theorem errReport_cases (rom : List ErrEntry) (code : Word) :
    (∃ text, (⟨code, text⟩ : ErrEntry) ∈ rom ∧ errReport rom code = { errHit := true, errText := text }) ∨
    ((∀ e ∈ rom, e.key ≠ code) ∧ errReport rom code = { errHit := false, errText := Config.unknownText }) := by
  unfold errReport
  cases h : errLookup rom code with
  | none => exact .inr ⟨errLookup_none_iff.1 h, rfl⟩
  | some text => exact .inl ⟨text, errLookup_some_mem h, rfl⟩

end Sys2Proof.Machine
end

