-- ==== Sys2Proof/Laws/Encoder.lean ====
section
/-! SUPPORT. Laws/Encoder.lean: what the encoder's shared parts can answer, and what each encode does to the state. -/

namespace Sys2Proof.Machine

/-- A header is formed only for a parameter in a band with `ak` and `sub` in range and a relative parameter of 11
bits. -/
theorem encodeHeader_ok {rom : Vector Band 6} {param ak sub : Int} {w : Word × Word}
    (h : encodeHeader rom param ak sub = .ok w) :
    ∃ i, bandLookup rom param = some i ∧ akInRange ak = true ∧ subInRange sub = true ∧
      0 ≤ relativeParameter (rom.get i) param ∧ relativeParameter (rom.get i) param < 2048 ∧
      w = (packPke ak.toNat (relativeParameter (rom.get i) param).toNat,
        packInd sub.toNat (rom.get i).page.toNat) := by
  unfold encodeHeader at h
  split at h
  · cases h
  · next i hi =>
    split at h
    · cases h
    · next ha =>
      split at h
      · cases h
      · next hb =>
        split at h
        · next hr =>
          cases h
          exact ⟨i, hi, by simpa using ha, by simpa using hb, hr.1, hr.2, rfl⟩
        · cases h

/-- The words of a value: VALUE_ERROR, or one of the three conversions, as the selector picks. -/
theorem convertValue_ok {tie : TieRule} {p : Int} {v : F64} {w : Word × Word} (h : convertValue tie p v = .ok w) :
    v.isFinite = true ∧
      ((formatSelect p v = .word ∧ w = convWord v) ∨ (formatSelect p v = .float ∧ convFloat v = some w) ∨
        (formatSelect p v = .fixpt ∧ w = convFixpt tie v)) := by
  unfold convertValue at h
  split at h
  · cases h
  · next hf =>
    refine ⟨by simpa using hf, ?_⟩
    split at h
    · next hs => cases h; exact .inl ⟨hs, rfl⟩
    · next hs =>
      split at h
      · next w' hw => cases h; exact .inr (.inl ⟨hs, hw⟩)
      · cases h
    · next hs => cases h; exact .inr (.inr ⟨hs, rfl⟩)

/-- A conversion fails only with VALUE_ERROR. -/
theorem convertValue_error {tie : TieRule} {p : Int} {v : F64} {e : EncodeStop} (h : convertValue tie p v = .error e) :
    e = .raised .valueError := by
  unfold convertValue at h
  split at h
  · cases h; rfl
  · split at h
    · cases h
    · split at h
      · cases h
      · cases h; rfl
    · cases h

theorem encodeRead_ok {rom : Vector Band 6} {param ak sub : Int} {t : Telegram}
    (h : encodeRead rom param ak sub = .ok t) :
    encodeHeader rom param ak sub = .ok (t.pke, t.ind) ∧ t.pwe1 = 0#16 ∧ t.pwe2 = 0#16 := by
  unfold encodeRead at h
  split at h
  · next pke ind hh => cases h; exact ⟨hh, rfl, rfl⟩
  · cases h

theorem encodeWrite_ok {rom : Vector Band 6} {tie : TieRule} {param ak sub : Int} {v : F64} {t : Telegram}
    (h : encodeWrite rom tie param ak sub v = .ok t) :
    encodeHeader rom param ak sub = .ok (t.pke, t.ind) ∧ convertValue tie param v = .ok (t.pwe1, t.pwe2) := by
  unfold encodeWrite at h
  split at h
  · next pke ind hh =>
    split at h
    · next pwe1 pwe2 hc => cases h; exact ⟨hh, hc⟩
    · cases h
  · cases h

/-- ENC_RD answers with one ENC response and changes nothing else. -/
theorem execEncRd_next {param ak sub : Int} {s t : State} (h : execEncRd param ak sub s = .next t) :
    ∃ r, t = s.respond (.enc r) := by
  obtain ⟨tg, _, rfl⟩ | ⟨k, _, rfl⟩ := finishEncode_next_iff.1 h
  exacts [⟨_, rfl⟩, ⟨_, rfl⟩]

/-- ENC_WR answers with one ENC response and changes nothing else. -/
theorem execEncWr_next {param ak sub : Int} {v : F64} {s t : State} (h : execEncWr param ak sub v s = .next t) :
    ∃ r, t = s.respond (.enc r) := by
  obtain ⟨tg, _, rfl⟩ | ⟨k, _, rfl⟩ := finishEncode_next_iff.1 h
  exacts [⟨_, rfl⟩, ⟨_, rfl⟩]

end Sys2Proof.Machine
end

