-- ==== Sys2Proof/Laws/Float.lean ====
section
/-! SUPPORT. Laws/Float.lean: the small facts about the binary64 fields and the rounding division. -/

namespace Sys2Proof

set_option exponentiation.threshold 2000 in
theorem F64.one_eq : F64.one = 2 ^ 1074 := by decide +kernel

set_option exponentiation.threshold 2000 in
theorem F32.unit_eq : F32.unit = 2 ^ 925 := by decide +kernel

theorem F64.one_pos : 0 < F64.one := by decide +kernel

theorem F32.unit_pos : 0 < F32.unit := by decide +kernel

theorem F64.expField_lt (v : F64) : v.expField < 2048 := (v.extractLsb' 52 11).isLt

theorem F64.fracField_lt (v : F64) : v.fracField < 2 ^ 52 := (v.extractLsb' 0 52).isLt

@[simp] theorem F64.signed_natAbs (v : F64) (n : Nat) : (v.signed n).natAbs = n := by
  unfold F64.signed
  split <;> simp

theorem F64.fracMag_lt (v : F64) : v.fracMag < F64.one := Nat.mod_lt _ F64.one_pos

/-- The mantissa and the exponent of a magnitude: 53 bits at a scale the exponent field gives. -/
theorem F64.mag_eq_scaled (v : F64) : ∃ m, m < 2 ^ 53 ∧ v.mag = m * 2 ^ (v.expField - 1) := by
  have h := v.fracField_lt
  unfold F64.mag
  split
  · next he => exact ⟨v.fracField, by omega, by simp [he]⟩
  · exact ⟨2 ^ 52 + v.fracField, by omega, rfl⟩

theorem roundDiv_ge_div (tie : TieRule) (n d : Nat) : n / d ≤ roundDiv tie n d := by
  unfold roundDiv
  split
  · exact le_rfl
  · split
    · omega
    · cases tie <;> simp

theorem roundDiv_le_div_succ (tie : TieRule) (n d : Nat) : roundDiv tie n d ≤ n / d + 1 := by
  unfold roundDiv
  split
  · omega
  · split
    · exact le_rfl
    · cases tie <;> simp only <;> omega

/-- Rounding changes nothing when the quotient is exact. -/
theorem roundDiv_mul_right (tie : TieRule) (n d : Nat) (hd : 0 < d) : roundDiv tie (n * d) d = n := by
  simp [roundDiv, hd]

/-- OVERFLOW is decided by the rounded magnitude alone. -/
theorem F64.toF32_eq_none_iff (v : F64) : v.toF32 = none ↔ 0x7F800000 ≤ F32.roundMag v.mag := by
  unfold F64.toF32
  split <;> simp_all

/-- A magnitude below the smallest normal number is rounded at the subnormal unit. -/
theorem binade_eq_zero {least n : Nat} (h : n < 2 * least) : binade least n = 0 := by
  unfold binade
  rcases Nat.eq_zero_or_pos least with rfl | hl
  · omega
  · have : n / least < 2 := by rwa [Nat.div_lt_iff_lt_mul hl]
    interval_cases n / least <;> rfl

end Sys2Proof
end

