-- ==== Sys2Proof/Laws/PerInstr.lean ====
section
/-! SUPPORT. Laws/PerInstr.lean: facts about the instructions as syntax, one lemma for each constructor. -/

namespace Sys2Proof.Laws

/-- The "match" column of spec/opcode_table.json, under mask 0x3. -/
def tableMatch : Instr → Nat
  | .encRd _ _ _ => 0x0
  | .encWr _ _ _ _ => 0x1
  | .dec _ _ _ _ => 0x2
  | .errq _ => 0x3

/-- An encoded instruction carries its row's match under the mask 0x3, in the record and in the flat layout. -/
def CmdBits.Statement (i : Instr) : Prop :=
  (encode i).cmd.toNat = tableMatch i ∧ (encode i).toNat % 4 = tableMatch i

/-- The flat layout keeps `cmd` at bits 1:0. -/
theorem toNat_low (q : Request) : q.toNat % 4 = q.cmd.toNat := by
  have := q.cmd.isLt
  unfold Request.toNat
  omega

theorem CmdBits.encRd (param ak sub : Int) : CmdBits.Statement (.encRd param ak sub) := ⟨rfl, toNat_low _⟩
theorem CmdBits.encWr (param ak sub : Int) (v : F64) : CmdBits.Statement (.encWr param ak sub v) := ⟨rfl, toNat_low _⟩
theorem CmdBits.dec (pke ind pwe1 pwe2 : Word) : CmdBits.Statement (.dec pke ind pwe1 pwe2) := ⟨rfl, toNat_low _⟩
theorem CmdBits.errq (code : Int) : CmdBits.Statement (.errq code) := ⟨rfl, toNat_low _⟩

end Sys2Proof.Laws
end

