-- ==== Sys2Proof/Tests/Slice0.lean ====
section
/-! SUPPORT. Tests/Slice0.lean: the model's own tests. Expected results come from the spec: the vectors of
95_test_vectors.md (named in each comment), the bit layout of the request (log entry 6) and hand calculation. The
witnesses at the end meet the hypotheses of the statements in Certificates/Slice0/Obligations.lean. -/

-- One thread for all the small theorems below: each thread Lean starts reserves a gigabyte of the check's data limit.
set_option Elab.async false

namespace Sys2Proof.Tests

open Sys2Proof.Machine

/-! ## WellFormed: one ill-formed term for each check, and the ends of the port's range -/

theorem test_wf_ends_of_s32 : fitsS32 (-2147483648) = true ∧ fitsS32 2147483647 = true ∧
    fitsS32 (-2147483649) = false ∧ fitsS32 2147483648 = false := by decide
theorem test_wf_encRd_refuses_param : (Instr.encRd 2147483648 1 0).wellFormed = false := by decide
theorem test_wf_encRd_refuses_ak : (Instr.encRd 0 (-2147483649) 0).wellFormed = false := by decide
theorem test_wf_encRd_refuses_sub : (Instr.encRd 0 1 2147483648).wellFormed = false := by decide
theorem test_wf_encWr_refuses_param : (Instr.encWr (-2147483649) 1 0 0).wellFormed = false := by decide
theorem test_wf_encWr_refuses_ak : (Instr.encWr 0 2147483648 0 0).wellFormed = false := by decide
theorem test_wf_encWr_refuses_sub : (Instr.encWr 0 1 (-2147483649) 0).wellFormed = false := by decide
theorem test_wf_errq_refuses_code : (Instr.errq 2147483648).wellFormed = false := by decide
theorem test_wf_accepts : (Instr.encRd (-1) 16 300).wellFormed = true ∧ (Instr.encWr 62000 (-1) 256 0).wellFormed = true ∧
    (Instr.dec 0xFFFF 0xFFFF 0xFFFF 0xFFFF).wellFormed = true ∧ (Instr.errq (-5)).wellFormed = true := by decide

/-! ## Decode: words written out from the command table and the layout -/

/-- ENC_RD -1, 1, 5: cmd 00, param all ones from bit 8, ak from bit 40, sub from bit 72. -/
theorem test_decode_encRd_word :
    decodeTableWord 264 (0 + 0xFFFFFFFF * 2 ^ 8 + 1 * 2 ^ 40 + 5 * 2 ^ 72) = some (.encRd (-1) 1 5) := by decide +kernel

/-- ENC_WR 2051, 3, 0, 5.0 (program P1, request 1: value = 0x4014000000000000). -/
theorem test_decode_encWr_word :
    decodeTableWord 264 (1 + 2051 * 2 ^ 8 + 3 * 2 ^ 40 + 0x4014000000000000 * 2 ^ 104) =
      some (.encWr 2051 3 0 0x4014000000000000) := by decide +kernel

/-- DEC 0x3033, 0x0080, 0x0000, 0x0005 (program P1, request 2). -/
theorem test_decode_dec_word :
    decodeTableWord 264 (2 + 0x3033 * 2 ^ 168 + 0x0080 * 2 ^ 184 + 0x0000 * 2 ^ 200 + 0x0005 * 2 ^ 216) =
      some (.dec 0x3033 0x0080 0x0000 0x0005) := by decide +kernel

/-- ERRQ -5 (95, 2.4): the code's two's complement from bit 232. -/
theorem test_decode_errq_word : decodeTableWord 264 (3 + 0xFFFFFFFB * 2 ^ 232) = some (.errq (-5)) := by decide +kernel

/-- Bits 7:2 of the command byte are outside the table's mask 0x3, and a short word has zero operands. -/
theorem test_decode_reads_only_the_mask :
    decodeTableWord 8 0xFD = some (.encWr 0 0 0 0) ∧ decodeTableWord 8 0x02 = some (.dec 0 0 0 0) := by decide +kernel

/-! ## The primitives -/

/-- 95, 2.2: the vectors of parameter 1082, from zero to the overflow threshold, as binary64 and binary32 patterns. -/
theorem test_toF32_vectors :
    F64.toF32 0x8000000000000000#64 = some 0x80000000#32 ∧          -- -0.0
    F64.toF32 0x3FF0000000000000#64 = some 0x3F800000#32 ∧          -- 1.0
    F64.toF32 0x47EFFFFFE0000000#64 = some 0x7F7FFFFF#32 ∧          -- the largest finite binary32
    F64.toF32 0x47EFFFFFF0000000#64 = none ∧                        -- 2^128 - 2^103
    F64.toF32 0x3690000000000000#64 = some 0x00000000#32 ∧          -- 2^-150, a tie to even
    F64.toF32 0x36A8000000000000#64 = some 0x00000002#32 := by decide +kernel  -- 1.5 * 2^-149, a tie to even

/-- 95, 2.2: the vectors of parameter 845: 722.2, 3.25 under both tie rules, and 1.96 and -0.5 under either. -/
theorem test_convFixpt_vectors :
    convFixpt .halfEven 0x408691999999999A#64 = (0x02D2#16, 0x0002#16) ∧
    convFixpt .halfEven 0x400A000000000000#64 = (0x0003#16, 0x0002#16) ∧
    convFixpt .halfAway 0x400A000000000000#64 = (0x0003#16, 0x0003#16) ∧
    convFixpt .halfAway 0x3FFF5C28F5C28F5C#64 = (0x0001#16, 0x000A#16) ∧
    convFixpt .halfEven 0xBFE0000000000000#64 = (0x0000#16, 0xFFFB#16) := by decide +kernel

/-- 60_exceptions.md R170: the numbering of the statuses. -/
theorem test_status_codes : (Status.ok.code, (Status.error .outOfRangeParameter).code, (Status.error .rangeError).code,
    (Status.error .valueError).code) = (0#2, 1#2, 2#2, 3#2) := by decide

/-! ## One step of each instruction -/

/-- An error table for the tests: the three keys the spec names and sixteen it does not. -/
def testErrRom : List ErrEntry :=
  [⟨0, Config.illegalParameterText⟩, ⟨7, "seven"⟩, ⟨204, "two hundred and four"⟩] ++
    (List.range 16).map fun k => ⟨BitVec.ofNat 16 (500 + k), "other"⟩

/-- The state after reset with that table and one request presented. -/
def presenting (i : Instr) : State := { State.reset with errRom := testErrRom, requests := [encode i] }

/-- The response of the step from there. -/
def answer (i : Instr) : Option Response :=
  match step (presenting i) with
  | .next t => t.responses.head?
  | .fault _ => none
  | .refused _ => none

theorem test_testErrRom_admissible : ErrRomAdmissible testErrRom := by decide +kernel

/-- 95, 2.1: ENC.RD 9999, 15, 255, the largest AK, sub and rel together. -/
theorem test_encRd_largest : answer (.encRd 9999 15 255) =
    some (.enc (.ok { pke := 0xF7CF, ind := 0xFF20, pwe1 := 0x0000, pwe2 := 0x0000 })) := by decide +kernel

/-- 95, 2.1: ENC.RD 62000, 16, 300, where the parameter check comes first. -/
theorem test_encRd_parameter_check_first :
    answer (.encRd 62000 16 300) = some (.enc (.error .outOfRangeParameter)) := by decide +kernel

/-- 95, 2.2: ENC.WR 2010, 2, 0, -1.9: forced WORD, the fraction dropped toward zero, and a wrap. -/
theorem test_encWr_forced_word : answer (.encWr 2010 2 0 0xBFFE666666666666) =
    some (.enc (.ok { pke := 0x200A, ind := 0x0080, pwe1 := 0x0000, pwe2 := 0xFFFF })) := by decide +kernel

/-- 95, 2.2: ENC.WR 100, 3, 0, 0.1: default FLOAT, high half first, rounded. -/
theorem test_encWr_default_float : answer (.encWr 100 3 0 0x3FB999999999999A) =
    some (.enc (.ok { pke := 0x3064, ind := 0x0000, pwe1 := 0x3DCC, pwe2 := 0xCCCD })) := by decide +kernel

/-- 95, 2.3: DEC 0x1FFF, 0x0074, 0, 0: bit 11 is ignored and the parameter lies above its band. -/
theorem test_dec_above_band : answer (.dec 0x1FFF 0x0074 0x0000 0x0000) =
    some (.dec {
      ak := 1, param := 62047, raw := 2047, offset := 60000, sub := 0, pke := 0x1FFF, ind := 0x0074,
      pwe1 := 0x0000, pwe2 := 0x0000, payload := .word 0 }) := by decide +kernel

/-- 95, 2.3: DEC 0x7ABC, 0x1234, 0xFFFF, 0x00CC: an error response, PWE1 ignored, page 0x34 in no band. -/
theorem test_dec_error : answer (.dec 0x7ABC 0x1234 0xFFFF 0x00CC) =
    some (.dec {
      ak := 7, param := 700, raw := 700, offset := 0, sub := 18, pke := 0x7ABC, ind := 0x1234,
      pwe1 := 0xFFFF, pwe2 := 0x00CC, payload := .error 204 true "two hundred and four" }) := by decide +kernel

/-- 95, 2.4: ERRQ 0. -/
theorem test_errq_hit : answer (.errq 0) = some (.errq
    { errHit := true, errText := "Illegal parameter number (PNU) - Parameter does not exist" }) := by decide +kernel

/-- 95, 2.4: ERRQ 65536, above u16 (65536 mod 2^16 is the key 0). -/
theorem test_errq_miss_above_u16 :
    answer (.errq 65536) = some (.errq { errHit := false, errText := "Unknown error code" }) := by decide +kernel

/-! ## Witnesses: the hypotheses of the statements can be met -/

/-- The state after reset meets the invariant of the ROMs. It is the only hypothesis of BandsAreDisjointAndPagesDistinct,
BandLookupFindsTheBand, ReverseLookupByPage, DecodedParameterIsRawPlusOffset, KnownErrorCodesHit,
RunAnswersEachRequestByItself, EveryRunIsSafe and FirstFailingCheckDecides. -/
theorem reset_romsOk : State.reset.romsOk := ⟨rfl, Config.errRom.admissible⟩

/-- A state the tests can compute with meets it too. -/
theorem presenting_romsOk (i : Instr) : (presenting i).romsOk := ⟨rfl, test_testErrRom_admissible⟩

theorem encRd_answers {s : State} {p ak sub : Int} {t : Telegram} (h : encodeRead s.bandRom p ak sub = .ok t) :
    Answers (.encRd p ak sub) s (.enc (.ok t)) := finishEncode_next_iff.2 (.inl ⟨t, h, rfl⟩)

theorem encWr_answers {s : State} {p ak sub : Int} {v : F64} {t : Telegram}
    (h : encodeWrite s.bandRom Config.fixptTie p ak sub v = .ok t) :
    Answers (.encWr p ak sub v) s (.enc (.ok t)) := finishEncode_next_iff.2 (.inl ⟨t, h, rfl⟩)

theorem encWr_raises {s : State} {p ak sub : Int} {v : F64} {k : ErrorKind}
    (h : encodeWrite s.bandRom Config.fixptTie p ak sub v = .error (.raised k)) :
    Answers (.encWr p ak sub v) s (.enc (.error k)) := finishEncode_next_iff.2 (.inr ⟨k, h, rfl⟩)

theorem witness_StepRunsDecodedRequest : (presenting (.errq 7)).requests = encode (.errq 7) :: [] := rfl

theorem witness_PresentedWordRunsAsDecoded : decodeTableWord 8 3 = some (.errq 0) := by decide +kernel

theorem witness_EmptyRunHasNoStep : State.reset.requests = [] := rfl

theorem witness_DecodeInvertsEncode : (Instr.encWr (-2147483648) 2147483647 (-1) 0x7FF8000000000001).wellFormed = true ∧
    (Instr.encRd 61999 15 255).wellFormed = true ∧ (Instr.dec 0xFFFF 1 2 3).wellFormed = true ∧
    (Instr.errq (-2147483648)).wellFormed = true := by decide

/-- Two DEC requests that differ in every port DEC does not read, and two ENC_RD requests that differ in `value`. -/
theorem witness_UnreadPortsHaveNoEffect :
    (∃ q q' : Request, q ≠ q' ∧ q.cmd = q'.cmd ∧ q.cmd = 0b10#2 ∧
      q.pke = q'.pke ∧ q.ind = q'.ind ∧ q.pwe1 = q'.pwe1 ∧ q.pwe2 = q'.pwe2) ∧
    (∃ q q' : Request, q ≠ q' ∧ q.cmd = q'.cmd ∧ q.cmd = 0b00#2 ∧
      q.param = q'.param ∧ q.ak = q'.ak ∧ q.sub = q'.sub) ∧
    (∃ q q' : Request, q ≠ q' ∧ q.cmd = q'.cmd ∧ q.cmd = 0b01#2 ∧
      q.param = q'.param ∧ q.ak = q'.ak ∧ q.sub = q'.sub ∧ q.value = q'.value) ∧
    (∃ q q' : Request, q ≠ q' ∧ q.cmd = q'.cmd ∧ q.cmd = 0b11#2 ∧ q.code = q'.code) :=
  ⟨⟨Request.blank 0b10, { Request.blank 0b10 with param := 1, ak := 1, sub := 1, value := 1, code := 1 }, by decide⟩,
   ⟨Request.blank 0b00, { Request.blank 0b00 with value := 1, pke := 1, ind := 1, pwe1 := 1, pwe2 := 1, code := 1 },
     by decide⟩,
   ⟨Request.blank 0b01, { Request.blank 0b01 with pke := 1, ind := 1, pwe1 := 1, pwe2 := 1, code := 1 }, by decide⟩,
   ⟨Request.blank 0b11, { Request.blank 0b11 with param := 1, ak := 1, sub := 1, value := 1, pke := 1 }, by decide⟩⟩

/-- StepKeepsBothRoms and StepAddsExactlyOneResponse: a step that answers, from a state that meets the invariant. -/
theorem witness_step_answers : (presenting (.dec 0 0 0 0)).romsOk ∧
    ∃ t, step (presenting (.dec 0 0 0 0)) = .next t := ⟨presenting_romsOk _, _, rfl⟩

/-- ExecChangesOnlyTheRecord: every constructor answers somewhere. -/
theorem witness_ExecChangesOnlyTheRecord : ∀ s : State,
    (∃ t, exec (.dec 0xFFFF 0xFFFF 0xFFFF 0xFFFF) s = .next t) ∧ (∃ t, exec (.errq (-1)) s = .next t) ∧
    (∃ t, exec (.encRd 0 0 0) State.reset = .next t) ∧ (∃ t, exec (.encWr 845 15 255 0) State.reset = .next t) :=
  fun _ => ⟨⟨_, rfl⟩, ⟨_, rfl⟩, ⟨_, rfl⟩,
    ⟨_, encWr_answers (t := { pke := 0xF34D, ind := 0xFF00, pwe1 := 0, pwe2 := 0 }) (by decide +kernel)⟩⟩

theorem witness_EveryPresentedRequestIsAnswered : (presenting (.errq 204)).romsOk ∧
    (presenting (.errq 204)).requests = encode (.errq 204) :: [] := ⟨presenting_romsOk _, rfl⟩

/-- RelativeParameterAlwaysFits: a band is found at both ends of the parameter space and at a band's edge. -/
theorem witness_RelativeParameterAlwaysFits : State.reset.romsOk ∧ bandLookup State.reset.bandRom 0 = some 0 ∧
    bandLookup State.reset.bandRom 1999 = some 0 ∧ bandLookup State.reset.bandRom 2000 = some 1 ∧
    bandLookup State.reset.bandRom 61999 = some 5 := ⟨reset_romsOk, by decide⟩

/-- EncRdGivesTheTelegram: both ends of every range. -/
theorem witness_EncRdGivesTheTelegram : State.reset.romsOk ∧ InBand 0 0 0x00 ∧ InBand 1999 0 0x00 ∧
    InBand 2000 2000 0x80 ∧ InBand 61999 60000 0x74 ∧ (0 : Int) ≤ 15 ∧ (15 : Int) ≤ 15 ∧ (0 : Int) ≤ 255 ∧
    (255 : Int) ≤ 255 := ⟨reset_romsOk, by decide⟩

/-- UnmappedParameterIsOutOfRange: each way of lying in no band, at its boundary, and an answer of each unit. -/
theorem witness_UnmappedParameterIsOutOfRange : State.reset.romsOk ∧ Unmapped (-1) ∧ Unmapped 10000 ∧
    Unmapped 59999 ∧ Unmapped 62000 ∧ ¬ Unmapped 9999 ∧ ¬ Unmapped 60000 ∧
    Answers (.encRd (-1) 1 0) State.reset (.enc (.error .outOfRangeParameter)) ∧
    Answers (.encWr 62000 16 300 0) State.reset (.enc (.error .outOfRangeParameter)) ∧
    (∃ r, Answers (.dec 0 0 0 0) State.reset r) ∧ (∃ r, Answers (.errq 0) State.reset r) :=
  ⟨reset_romsOk, by decide, by decide, by decide, by decide, by decide, by decide, rfl, rfl, ⟨_, rfl⟩, ⟨_, rfl⟩⟩

theorem witness_AkOrSubOutOfRangeIsRangeError : State.reset.romsOk ∧ ¬ Unmapped 100 ∧
    ∀ x ∈ [((-1 : Int), (0 : Int)), (16, 0), (1, -1), (1, 256)], x.1 < 0 ∨ 15 < x.1 ∨ x.2 < 0 ∨ 255 < x.2 :=
  ⟨reset_romsOk, by decide, by decide⟩

theorem witness_FailedEncodeDrivesZeroWords : (EncResponse.error .rangeError).status ≠ .ok := by decide

/-- EncWrGivesTheWordTelegram: 5.7 at 2051, -1.9 at 2010 (forced), and 65537.0 at 100 (default). -/
theorem witness_EncWrGivesTheWordTelegram : State.reset.romsOk ∧ InBand 2051 2000 0x80 ∧ InBand 2010 2000 0x80 ∧
    InBand 100 0 0x00 ∧ F64.isFinite 0x4016CCCCCCCCCCCD = true ∧ F64.isFinite 0xBFFE666666666666 = true ∧
    F64.isFinite 0x40F0001000000000 = true ∧ F64.hasFraction 0x40F0001000000000 = false :=
  ⟨reset_romsOk, by decide +kernel⟩

/-- EncWrGivesTheFloatTelegram: the whole value 1.0 at 1082 (forced), and 0.1 at 61999 (default). -/
theorem witness_EncWrGivesTheFloatTelegram : State.reset.romsOk ∧ InBand 1082 0 0x00 ∧ InBand 61999 60000 0x74 ∧
    F64.isFinite 0x3FF0000000000000 = true ∧ F64.toF32 0x3FF0000000000000 = some 0x3F800000#32 ∧
    F64.isFinite 0x3FB999999999999A = true ∧ F64.hasFraction 0x3FB999999999999A = true ∧
    F64.toF32 0x3FB999999999999A = some 0x3DCCCCCD#32 := ⟨reset_romsOk, by decide +kernel⟩

theorem witness_EncWrGivesTheFixedPointTelegram : State.reset.romsOk ∧ F64.isFinite 0x408691999999999A = true :=
  ⟨reset_romsOk, by decide⟩

/-- UnwritableValueIsValueError: infinity and NaN anywhere, 1e39 at 1082 (forced FLOAT). No value overflows by
default: one with a fraction is below 2^53. -/
theorem witness_UnwritableValueIsValueError : State.reset.romsOk ∧ ¬ Unmapped 100 ∧
    F64.isFinite 0x7FF0000000000000 = false ∧ F64.isFinite 0xFFF8000000000000 = false ∧ ¬ Unmapped 1082 ∧
    F64.toF32 0x48078287F49C4A1D = none := ⟨reset_romsOk, by decide +kernel⟩

/-- The telegram of 5.0 written to 2051 with AK 3 and 2. -/
theorem witness_AkFillsOnlyItsNibble : State.reset.romsOk ∧
    Answers (.encWr 2051 3 0 0x4014000000000000) State.reset
      (.enc (.ok { pke := 0x3033, ind := 0x0080, pwe1 := 0, pwe2 := 5 })) ∧
    Answers (.encWr 2051 2 0 0x4014000000000000) State.reset
      (.enc (.ok { pke := 0x2033, ind := 0x0080, pwe1 := 0, pwe2 := 5 })) :=
  ⟨reset_romsOk, encWr_answers (by decide +kernel), encWr_answers (by decide +kernel)⟩

/-- EveryEncodedTelegramObeysTheLaws and DecodeAfterEncodeGivesBackTheParameter: an OK answer of each encode. -/
theorem witness_encodes_answer : State.reset.romsOk ∧
    Answers (.encRd 61999 1 0) State.reset (.enc (.ok { pke := 0x17CF, ind := 0x0074, pwe1 := 0, pwe2 := 0 })) ∧
    Answers (.encWr 61999 3 7 0x3FE0000000000000) State.reset
      (.enc (.ok { pke := 0x37CF, ind := 0x0774, pwe1 := 0x3F00, pwe2 := 0 })) :=
  ⟨reset_romsOk, encRd_answers (by decide +kernel), encWr_answers (by decide +kernel)⟩

/-- FractionExactlyOfNonIntegers: 2^52 is finite and has the least magnitude its second clause speaks of. -/
theorem witness_FractionExactlyOfNonIntegers : F64.isFinite 0x4330000000000000 = true ∧
    2 ^ 52 * F64.one ≤ F64.mag 0x4330000000000000 := by decide +kernel

/-- Binary32OverflowThreshold: finite values on the threshold and just below it. -/
theorem witness_Binary32OverflowThreshold : F64.isFinite 0x47EFFFFFF0000000 = true ∧
    F64.toF32 0x47EFFFFFF0000000 = none ∧ F64.isFinite 0x47EFFFFFEFFFFFFF = true ∧
    F64.toF32 0x47EFFFFFEFFFFFFF = some 0x7F7FFFFF#32 := by decide +kernel

/-- Binary32RoundingIsNearestEven: a tie, 2^-150, and another finite number as near as the result. -/
theorem witness_Binary32RoundingIsNearestEven : F64.isFinite 0x3690000000000000 = true ∧
    F64.toF32 0x3690000000000000 = some 0#32 ∧ F32.isFinite 1#32 = true ∧ F32.mag 1#32 ≠ F32.mag 0#32 ∧
    ((F32.mag 0#32 : Int) - F64.mag 0x3690000000000000).natAbs =
      ((F32.mag 1#32 : Int) - F64.mag 0x3690000000000000).natAbs := by decide +kernel

/-- Binary32ValuesConvertExactly: -2.5 in both formats. -/
theorem witness_Binary32ValuesConvertExactly : F32.isFinite 0xC0200000#32 = true ∧
    F64.negative 0xC004000000000000 = F32.negative 0xC0200000#32 ∧
    F64.mag 0xC004000000000000 = F32.mag 0xC0200000#32 := by decide +kernel

/-- RoundDivIsNearestWithTies: a divisor, and a tie under each rule. -/
theorem witness_RoundDivIsNearestWithTies : 0 < 2 ∧ 2 * (5 % 2) = 2 ∧ roundDiv .halfEven 5 2 = 2 ∧
    roundDiv .halfAway 5 2 = 3 := by decide

/-- FixedPointTenthsAreBounded and FractionIsExact: 1.96 is finite with a fraction above 0.95; -0.5 is negative. -/
theorem witness_FixedPointTenthsAreBounded : F64.isFinite 0x3FFF5C28F5C28F5C = true ∧
    F64.negative 0x3FFF5C28F5C28F5C = false ∧ 19 * F64.one ≤ 20 * F64.fracMag 0x3FFF5C28F5C28F5C ∧
    F64.isFinite 0xBFE0000000000000 = true ∧ F64.negative 0xBFE0000000000000 = true := by decide +kernel

/-- ErrorPathLooksUpPwe2, WordPathReportsPwe2, FloatPathKeepsThePattern: AK 7, and another AK with PWE1 zero or not. -/
theorem witness_dec_paths : (0x7ABC#16).toNat / 4096 = 7 ∧ ((0x3064#16).toNat / 4096 ≠ 7 ∧ 0x0000#16 = 0#16) ∧
    ((0x8064#16).toNat / 4096 ≠ 7 ∧ 0x0001#16 ≠ 0#16) := by decide

/-- KindByAkAndPwe1: each clause at the ends of its range. -/
theorem witness_KindByAkAndPwe1 :
    (resultKind (akField 0x7000) 0, resultKind (akField 0x7FFF) 0xFFFF, resultKind (akField 0x6FFF) 1,
      resultKind (akField 0x8000) 0xFFFF, resultKind (akField 0x6FFF) 0, resultKind (akField 0x8000) 0) =
    (.error, .error, .float, .float, .word, .word) := by decide

/-- ReverseLookupByPage: the six bytes, and bytes beside them that no band has. -/
theorem witness_ReverseLookupByPage :
    [0x00, 0x80, 0x10, 0x90, 0x20, 0x74, 0x01, 0x81, 0xFF].map (revLookup State.reset.bandRom) =
    [0, 2000, 4000, 6000, 8000, 60000, 0, 0, 0] := by decide

/-- ErrqReportsTheText: codes at both ends of u16 and just outside it. -/
theorem witness_ErrqReportsTheText :
    [(-1 : Int), 0, 65535, 65536].map (fun c => (queryError testErrRom c).errHit) = [false, true, false, false] := by
  decide +kernel

/-- FirstFailingCheckDecides: each check at its boundary, with every later operand bad. -/
theorem witness_FirstFailingCheckDecides :
    encodeWrite Config.bandRom .halfEven 62000 16 256 0x7FF0000000000000 = .error (.raised .outOfRangeParameter) ∧
    encodeWrite Config.bandRom .halfEven 61999 16 256 0x7FF0000000000000 = .error (.raised .rangeError) ∧
    encodeWrite Config.bandRom .halfEven 61999 15 256 0x7FF0000000000000 = .error (.raised .rangeError) ∧
    encodeWrite Config.bandRom .halfEven 61999 15 255 0x7FF0000000000000 = .error (.raised .valueError) ∧
    encodeWrite Config.bandRom .halfEven 1082 0 0 0x47EFFFFFF0000000 = .error (.raised .valueError) ∧
    encodeWrite Config.bandRom .halfEven 1083 0 0 0x47EFFFFFF0000000 =
      .ok { pke := 0x043B, ind := 0, pwe1 := 0, pwe2 := 0 } ∧
    encodeRead Config.bandRom 61999 15 255 = .ok { pke := 0xF7CF, ind := 0xFF74, pwe1 := 0, pwe2 := 0 } := by
  decide +kernel

/-- DecIgnoresPkeBitEleven and ErrHitExactlyOnKeys: DEC responses, one of kind ERROR that hits, one that misses, and
ERRQ responses that hit and miss. -/
theorem witness_ErrHitExactlyOnKeys :
    (∃ r : DecResponse, Answers (.dec 0x7000 0 0 204) (presenting (.errq 0)) (.dec r) ∧ r.kind = .error) ∧
    (∃ r : DecResponse, Answers (.dec 0x7000 0 0 0xFFFF) (presenting (.errq 0)) (.dec r) ∧ r.kind = .error ∧
      r.payload = .error 0xFFFF false "Unknown error code") ∧
    (∃ r, Answers (.errq 7) (presenting (.errq 0)) r) ∧
    Answers (.errq 65535) (presenting (.errq 0)) (.errq { errHit := false, errText := "Unknown error code" }) :=
  ⟨⟨_, rfl, rfl⟩, ⟨_, rfl, rfl, rfl⟩, ⟨_, rfl⟩, rfl⟩

/-- DecodingIsIdempotent: instructions of both shapes. -/
theorem witness_DecodingIsIdempotent :
    (∃ pke ind pwe1 pwe2, Instr.dec 1 2 3 4 = .dec pke ind pwe1 pwe2) ∧ (∃ code, Instr.errq 7 = .errq code) :=
  ⟨⟨1, 2, 3, 4, rfl⟩, ⟨7, rfl⟩⟩

/-- WordWriteReadsBackModulo: -1.0 written to 100, and 27.0, whose magnitude is 27 units of one. -/
theorem witness_WordWriteReadsBackModulo : State.reset.romsOk ∧ (2 : Int) ≠ 7 ∧
    formatSelect 100 0xBFF0000000000000 = .word ∧
    Answers (.encWr 100 2 0 0xBFF0000000000000) State.reset
      (.enc (.ok { pke := 0x2064, ind := 0, pwe1 := 0, pwe2 := 0xFFFF })) ∧
    formatSelect 100 0x403B000000000000 = .word ∧ F64.negative 0x403B000000000000 = false ∧
    F64.mag 0x403B000000000000 = 27 * F64.one ∧
    Answers (.encWr 100 2 0 0x403B000000000000) State.reset
      (.enc (.ok { pke := 0x2064, ind := 0, pwe1 := 0, pwe2 := 27 })) :=
  ⟨reset_romsOk, by decide, by decide +kernel, encWr_answers (by decide +kernel), by decide +kernel, by decide +kernel,
    by decide +kernel, encWr_answers (by decide +kernel)⟩

/-- FloatWriteReadsBackUnlessHighHalfZero: 50.0 at 1082, and 1e-50 at 100, whose pattern is zero. -/
theorem witness_FloatWriteReadsBackUnlessHighHalfZero : State.reset.romsOk ∧ (3 : Int) ≠ 7 ∧
    formatSelect 1082 0x4049000000000000 = .float ∧ F64.toF32 0x4049000000000000 = some 0x42480000#32 ∧
    Answers (.encWr 1082 3 0 0x4049000000000000) State.reset
      (.enc (.ok { pke := 0x343A, ind := 0, pwe1 := 0x4248, pwe2 := 0 })) ∧
    formatSelect 100 0x358DEE7A4AD4B81F = .float ∧ F64.toF32 0x358DEE7A4AD4B81F = some 0#32 ∧
    Answers (.encWr 100 3 0 0x358DEE7A4AD4B81F) State.reset
      (.enc (.ok { pke := 0x3064, ind := 0, pwe1 := 0, pwe2 := 0 })) :=
  ⟨reset_romsOk, by decide, by decide +kernel, by decide +kernel, encWr_answers (by decide +kernel), by decide +kernel,
    by decide +kernel, encWr_answers (by decide +kernel)⟩

/-- FixedPointWriteReadsBackAsFloatOrWord: 70000.0 and 0.0, whose tenths are 0 under either tie rule. -/
theorem witness_FixedPointWriteReadsBackAsFloatOrWord : State.reset.romsOk ∧ (2 : Int) ≠ 7 ∧
    Answers (.encWr 845 2 0 0x40F1170000000000) State.reset
      (.enc (.ok { pke := 0x234D, ind := 0, pwe1 := 0x1170, pwe2 := 0 })) ∧
    F64.trunc 0x40F1170000000000 % 65536 ≠ 0 ∧
    Answers (.encWr 845 2 0 0) State.reset (.enc (.ok { pke := 0x234D, ind := 0, pwe1 := 0, pwe2 := 0 })) ∧
    F64.trunc 0 % 65536 = 0 :=
  ⟨reset_romsOk, by decide, encWr_answers (by decide +kernel), by decide +kernel, encWr_answers (by decide +kernel),
    by decide +kernel⟩

end Sys2Proof.Tests
end

section
/-! PROOFS. The state family: neither ROM is written by any operation (10_state.md R26, R29). -/

namespace Sys2Proof.Machine

/-- All an instruction that answers can do to the state: drive one response. -/
theorem exec_next_respond {i : Instr} {s t : State} (h : exec i s = .next t) : ∃ r, t = s.respond r := by
  cases i with
  | encRd param ak sub =>
    obtain ⟨r, hr⟩ := execEncRd_next h
    exact ⟨.enc r, hr⟩
  | encWr param ak sub value =>
    obtain ⟨r, hr⟩ := execEncWr_next h
    exact ⟨.enc r, hr⟩
  | dec pke ind pwe1 pwe2 => cases h; exact ⟨_, rfl⟩
  | errq code => cases h; exact ⟨_, rfl⟩

theorem exec_keeps_bandRom {i : Instr} {s t : State} (h : exec i s = .next t) : t.bandRom = s.bandRom := by
  obtain ⟨r, rfl⟩ := exec_next_respond h
  exact respond_bandRom s r

theorem exec_keeps_errRom {i : Instr} {s t : State} (h : exec i s = .next t) : t.errRom = s.errRom := by
  obtain ⟨r, rfl⟩ := exec_next_respond h
  exact respond_errRom s r

/-- A step's own part, taking the request, touches neither ROM, so both are as `exec` leaves them. -/
theorem step_keeps_roms {s t : State} (h : step s = .next t) : t.bandRom = s.bandRom ∧ t.errRom = s.errRom := by
  obtain ⟨q, rest, -, hexec⟩ := step_next_cases h
  have hband := exec_keeps_bandRom hexec
  have herr := exec_keeps_errRom hexec
  exact ⟨hband, herr⟩

/-- The invariant speaks of the two ROMs alone, whatever requests and responses a state holds. -/
theorem romsOk_of_same_roms {s t : State} (hband : t.bandRom = s.bandRom) (herr : t.errRom = s.errRom)
    (hs : s.romsOk) : t.romsOk := by
  obtain ⟨hbands, herrs⟩ := hs
  exact ⟨hband.trans hbands, herr ▸ herrs⟩

/-- Settles O12: a step runs one instruction, and an instruction only drives a response. -/
theorem stepKeepsBothRoms : Obligations.StepKeepsBothRoms := by
  intro s t h
  obtain ⟨hband, herr⟩ := step_keeps_roms h
  exact ⟨hband, herr, romsOk_of_same_roms hband herr⟩

/-- Settles O9: the table is a finite check on the reset constant; that it stays is `exec_keeps_bandRom`. -/
theorem bandRomHoldsTheTable : Obligations.BandRomHoldsTheTable := by
  refine ⟨?_, fun i s t h => exec_keeps_bandRom h⟩
  rw [reset_bandRom]
  decide

end Sys2Proof.Machine
end

section
/-! PROOFS. The encoder family: `bandLookup` on the band table of 10_state.md R26 (40_encoder.md R100). -/

namespace Sys2Proof.Machine

/-- The ranges of two different bands of the table do not overlap (10_state.md R27). -/
theorem bandRom_ranges_disjoint : ∀ i j : Fin 6, i ≠ j →
    (Config.bandRom.get i).hi.toNat ≤ (Config.bandRom.get j).lo.toNat ∨
    (Config.bandRom.get j).hi.toNat ≤ (Config.bandRom.get i).lo.toNat := by decide

theorem bandHolds_bandRom_unique {p : Int} {i j : Fin 6} (hi : bandHolds (Config.bandRom.get i) p = true)
    (hj : bandHolds (Config.bandRom.get j) p = true) : i = j := by
  obtain ⟨hloi, hhii⟩ := bandHolds_iff.1 hi
  obtain ⟨hloj, hhij⟩ := bandHolds_iff.1 hj
  by_contra hne
  have hdisj := bandRom_ranges_disjoint i j hne
  omega

/-- At most one band holds a number, so the order in which the bands are tested does not matter. -/
theorem bandLookup_bandRom_eq_some_iff {p : Int} {i : Fin 6} :
    bandLookup Config.bandRom p = some i ↔ bandHolds (Config.bandRom.get i) p = true := by
  refine ⟨bandLookup_some_holds, fun hi => ?_⟩
  cases hfound : bandLookup Config.bandRom p with
  | none => exact absurd hi (by simp [bandLookup_none_iff.1 hfound i])
  | some j => rw [bandHolds_bandRom_unique hi (bandLookup_some_holds hfound)]

theorem bandRom_ranges_within : ∀ i : Fin 6, (Config.bandRom.get i).hi.toNat ≤ 10000 ∨
    (60000 ≤ (Config.bandRom.get i).lo.toNat ∧ (Config.bandRom.get i).hi.toNat ≤ 62000) := by decide

/-- The first five ranges join up to [0,10000) and the sixth is [60000,62000) (20_memory.md R43). -/
theorem exists_bandHolds_bandRom_iff {p : Int} :
    (∃ i : Fin 6, bandHolds (Config.bandRom.get i) p = true) ↔ (0 ≤ p ∧ p < 10000) ∨ (60000 ≤ p ∧ p < 62000) := by
  constructor
  · rintro ⟨i, hi⟩
    obtain ⟨hlo, hhi⟩ := bandHolds_iff.1 hi
    have hwithin := bandRom_ranges_within i
    omega
  · intro hp
    have hcover : (0 ≤ p ∧ p < 2000) ∨ (2000 ≤ p ∧ p < 4000) ∨ (4000 ≤ p ∧ p < 6000) ∨
        (6000 ≤ p ∧ p < 8000) ∨ (8000 ≤ p ∧ p < 10000) ∨ (60000 ≤ p ∧ p < 62000) := by omega
    obtain h | h | h | h | h | h := hcover
    · exact ⟨0, bandHolds_iff.2 h⟩
    · exact ⟨1, bandHolds_iff.2 h⟩
    · exact ⟨2, bandHolds_iff.2 h⟩
    · exact ⟨3, bandHolds_iff.2 h⟩
    · exact ⟨4, bandHolds_iff.2 h⟩
    · exact ⟨5, bandHolds_iff.2 h⟩

theorem bandLookup_bandRom_eq_none_iff {p : Int} : bandLookup Config.bandRom p = none ↔ Unmapped p := by
  have hheld := not_congr (exists_bandHolds_bandRom_iff (p := p))
  simp only [not_exists, Bool.not_eq_true] at hheld
  rw [bandLookup_none_iff, hheld]
  omega

/-- Settles O18: the bands are disjoint, so the one found is the one that holds `p`; their union is the complement
of the unmapped numbers. -/
theorem bandLookupFindsTheBand : Obligations.BandLookupFindsTheBand := by
  rintro s p ⟨hrom, -⟩
  rw [hrom]
  exact ⟨fun i => bandLookup_bandRom_eq_some_iff.trans bandHolds_iff, bandLookup_bandRom_eq_none_iff⟩

end Sys2Proof.Machine
end

section
/-! PROOFS. The decoder family: DEC and ERRQ are total functions of their operands and the two ROMs
(41_decoder.md R140, R141, R143, R146, R154). -/

namespace Sys2Proof.Machine

/-! ## What each part of the decoder computes -/

@[simp] theorem akField_toNat (pke : Word) : (akField pke).toNat = pke.toNat / 4096 := by
  have hlt := pke.isLt
  simp only [akField, BitVec.extractLsb'_toNat, Nat.shiftRight_eq_div_pow]
  omega

@[simp] theorem rawField_toNat (pke : Word) : (rawField pke).toNat = pke.toNat % 2048 := by
  simp [rawField]

@[simp] theorem subField_toNat (ind : Word) : (subField ind).toNat = ind.toNat / 256 := by
  have hlt := ind.isLt
  simp only [subField, BitVec.extractLsb'_toNat, Nat.shiftRight_eq_div_pow]
  omega

theorem pageField_eq_ofNat (ind : Word) : pageField ind = BitVec.ofNat 8 (ind.toNat % 256) := by
  apply BitVec.eq_of_toNat_eq
  simp [pageField]

theorem akField_eq_seven_iff {pke : Word} : akField pke = 7#4 ↔ pke.toNat / 4096 = 7 := by
  rw [← BitVec.toNat_inj, akField_toNat]
  rfl

/-- The choice of R143 in numbers. -/
theorem resultKind_akField (pke pwe1 : Word) : resultKind (akField pke) pwe1 =
    if pke.toNat / 4096 = 7 then .error else if pwe1.toNat ≠ 0 then .float else .word := by
  have hpwe1 : pwe1 = 0#16 ↔ pwe1.toNat = 0 := BitVec.toNat_inj.symm
  simp only [resultKind, akField_eq_seven_iff, ne_eq, hpwe1]

/-- A payload belongs to the kind that selected it, whatever the error ROM and PWE2 hold. -/
theorem interpret_kind (rom : List ErrEntry) (ak : BitVec 4) (pwe1 pwe2 : Word) :
    (interpret rom ak pwe1 pwe2).kind = resultKind ak pwe1 := by
  unfold interpret
  cases resultKind ak pwe1 <;> rfl

theorem interpret_of_word {rom : List ErrEntry} {ak : BitVec 4} {pwe1 pwe2 : Word}
    (h : resultKind ak pwe1 = .word) : interpret rom ak pwe1 pwe2 = .word pwe2 := by
  unfold interpret
  rw [h]

/-- DEC answers in every state: it has no check that could stop it (41_decoder.md R150). -/
theorem dec_answers (pke ind pwe1 pwe2 : Word) (s : State) :
    Answers (.dec pke ind pwe1 pwe2) s (.dec (decodeTelegram s.bandRom s.errRom pke ind pwe1 pwe2)) := rfl

/-- ERRQ answers in every state (41_decoder.md R151). -/
theorem errq_answers (code : Int) (s : State) : Answers (.errq code) s (.errq (queryError s.errRom code)) := rfl

/-! ## The reverse lookup -/

theorem revLookup_eq_offset_of_unique {rom : Vector Band 6} {i : Fin 6}
    (hunique : ∀ j : Fin 6, (rom.get j).page = (rom.get i).page → j = i) :
    revLookup rom (rom.get i).page = (rom.get i).offset := by
  have hmem : ∀ j : Fin 6, j ∈ bandIndices := by decide
  unfold revLookup
  split
  · next j hfound =>
    have hpage : (rom.get j).page = (rom.get i).page := by simpa using List.find?_some hfound
    rw [hunique j hpage]
  · next hmiss => simpa using List.find?_eq_none.1 hmiss i (hmem i)

theorem revLookup_eq_zero_of_forall_ne {rom : Vector Band 6} {page : Byte}
    (h : ∀ i : Fin 6, (rom.get i).page ≠ page) : revLookup rom page = 0#16 := by
  unfold revLookup
  split
  · next i hfound => exact absurd (by simpa using List.find?_some hfound) (h i)
  · rfl

/-- The page bytes of the table are distinct (10_state.md R27). -/
theorem bandRom_page_injective : ∀ i j : Fin 6,
    (Config.bandRom.get i).page = (Config.bandRom.get j).page → i = j := by decide

theorem revLookup_bandRom_page (i : Fin 6) :
    revLookup Config.bandRom (Config.bandRom.get i).page = (Config.bandRom.get i).offset :=
  revLookup_eq_offset_of_unique fun j hpage => bandRom_page_injective j i hpage

/-- The offset that goes with a page byte, in the spec's own numbers (10_state.md R26; 0 for a byte no band has). -/
def offsetOfPage (page : Byte) : Nat :=
  if page = 0x00#8 then 0 else if page = 0x80#8 then 2000 else if page = 0x10#8 then 4000
  else if page = 0x90#8 then 6000 else if page = 0x20#8 then 8000 else if page = 0x74#8 then 60000 else 0

theorem offsetOfPage_bandRom_page : ∀ i : Fin 6,
    offsetOfPage (Config.bandRom.get i).page = (Config.bandRom.get i).offset.toNat := by decide

theorem offsetOfPage_eq_zero_of_forall_ne {page : Byte} (h : ∀ i : Fin 6, (Config.bandRom.get i).page ≠ page) :
    offsetOfPage page = 0 := by
  have h1 : page ≠ 0x80#8 := (h 1).symm
  have h2 : page ≠ 0x10#8 := (h 2).symm
  have h3 : page ≠ 0x90#8 := (h 3).symm
  have h4 : page ≠ 0x20#8 := (h 4).symm
  have h5 : page ≠ 0x74#8 := (h 5).symm
  simp [offsetOfPage, h1, h2, h3, h4, h5]

/-- A byte is the page of one band, found by its uniqueness, or of none, and then the lookup gives 0. -/
theorem revLookup_bandRom_toNat (page : Byte) : (revLookup Config.bandRom page).toNat = offsetOfPage page := by
  by_cases hpage : ∃ i : Fin 6, (Config.bandRom.get i).page = page
  · obtain ⟨i, rfl⟩ := hpage
    rw [revLookup_bandRom_page, offsetOfPage_bandRom_page]
  · have hne : ∀ i : Fin 6, (Config.bandRom.get i).page ≠ page := not_exists.1 hpage
    rw [revLookup_eq_zero_of_forall_ne hne, offsetOfPage_eq_zero_of_forall_ne hne]
    rfl

/-! ## Requests that read nothing but the ROMs -/

/-- DEC and ERRQ have one response for all states with the same ROMs (41_decoder.md R154). -/
theorem decoder_answer_by_roms {i : Instr}
    (hi : (∃ pke ind pwe1 pwe2, i = .dec pke ind pwe1 pwe2) ∨ (∃ code, i = .errq code)) (s : State) :
    ∃ r : Response, ∀ s' : State, s'.bandRom = s.bandRom → s'.errRom = s.errRom → Answers i s' r := by
  obtain ⟨pke, ind, pwe1, pwe2, rfl⟩ | ⟨code, rfl⟩ := hi
  · refine ⟨.dec (decodeTelegram s.bandRom s.errRom pke ind pwe1 pwe2), fun s' hband herr => ?_⟩
    rw [← hband, ← herr]
    exact dec_answers pke ind pwe1 pwe2 s'
  · refine ⟨.errq (queryError s.errRom code), fun s' _ herr => ?_⟩
    rw [← herr]
    exact errq_answers code s'

theorem respond_respond (s : State) (r r' : Response) :
    (s.respond r).respond r' = { s with responses := s.responses ++ [r, r'] } := by
  simp [State.respond]

/-! ## The statements -/

/-- Settles O39: each field of the response is a field of PKE or IND, and those are arithmetic on the word. -/
theorem decExtractsTheFields : Obligations.DecExtractsTheFields := by
  intro s pke ind pwe1 pwe2
  have hoffset := congrArg (revLookup s.bandRom) (pageField_eq_ofNat ind)
  exact ⟨_, dec_answers pke ind pwe1 pwe2 s, akField_toNat pke, rawField_toNat pke, subField_toNat ind, hoffset,
    rfl, rfl, rfl, rfl⟩

/-- Settles O40: the lookup in the spec's table, by `revLookup_bandRom_toNat`. -/
theorem reverseLookupByPage : Obligations.ReverseLookupByPage := by
  rintro s page ⟨hrom, -⟩
  rw [hrom]
  exact revLookup_bandRom_toNat page

/-- Settles O42: the payload's kind is the selected one, and that is chosen by the number in AK and by PWE1. -/
theorem kindByAkAndPwe1 : Obligations.KindByAkAndPwe1 := by
  intro s pke ind pwe1 pwe2
  have hkind := (interpret_kind s.errRom (akField pke) pwe1 pwe2).trans (resultKind_akField pke pwe1)
  exact ⟨_, dec_answers pke ind pwe1 pwe2 s, hkind⟩

/-- Settles O44: with AK not 7 and PWE1 zero the kind selected is WORD. -/
theorem wordPathReportsPwe2 : Obligations.WordPathReportsPwe2 := by
  rintro s pke ind pwe1 pwe2 hak rfl
  have hkind : resultKind (akField pke) 0#16 = .word := by simp [resultKind_akField, hak]
  exact ⟨_, dec_answers pke ind 0#16 pwe2 s, interpret_of_word hkind⟩

/-- Settles O50: the first answer leaves both ROMs as they were, so the second request meets the same ROMs. -/
theorem decodingIsIdempotent : Obligations.DecodingIsIdempotent := by
  intro i s hi
  obtain ⟨r, hr⟩ := decoder_answer_by_roms hi s
  have hfirst : exec i s = .next (s.respond r) := hr s rfl rfl
  have hsecond : exec i (s.respond r) = .next ((s.respond r).respond r) :=
    hr (s.respond r) (respond_bandRom s r) (respond_errRom s r)
  exact ⟨r, hr, s.respond r, hfirst, respond_respond s r r ▸ hsecond⟩

end Sys2Proof.Machine
end

section
/-! PROOFS. The request and its encoding: the record of ports and the flat layout lose nothing
(30_encoding.md R69, R70, R72, R77). -/

namespace Sys2Proof

/-! ## The integer ports -/

theorem fitsS32_iff {x : Int} : fitsS32 x = true ↔ -2147483648 ≤ x ∧ x ≤ 2147483647 := by
  simp [fitsS32]

/-- What a 32-bit port carries fits it. -/
@[simp] theorem fitsS32_toInt (b : BitVec 32) : fitsS32 b.toInt = true := by
  have hlo := BitVec.le_toInt b
  have hhi := BitVec.toInt_lt (x := b)
  rw [fitsS32_iff]
  omega

/-- An integer that fits a port is carried unchanged. -/
theorem toInt_ofInt_of_fitsS32 {x : Int} (h : fitsS32 x = true) : (BitVec.ofInt 32 x).toInt = x := by
  obtain ⟨hlo, hhi⟩ := fitsS32_iff.1 h
  rw [BitVec.toInt_ofInt]
  exact Int.bmod_eq_of_le (by omega) (by omega)

theorem wellFormed_encRd_iff {param ak sub : Int} : (Instr.encRd param ak sub).wellFormed = true ↔
    fitsS32 param = true ∧ fitsS32 ak = true ∧ fitsS32 sub = true := by
  simp [Instr.wellFormed, and_assoc]

theorem wellFormed_encWr_iff {param ak sub : Int} {v : F64} : (Instr.encWr param ak sub v).wellFormed = true ↔
    fitsS32 param = true ∧ fitsS32 ak = true ∧ fitsS32 sub = true := by
  simp [Instr.wellFormed, and_assoc]

/-! ## What each command reads -/

theorem decode_of_cmd_encRd {q : Request} (h : q.cmd = 0b00#2) :
    decode q = .encRd q.param.toInt q.ak.toInt q.sub.toInt := by
  simp [decode, h]

theorem decode_of_cmd_encWr {q : Request} (h : q.cmd = 0b01#2) :
    decode q = .encWr q.param.toInt q.ak.toInt q.sub.toInt q.value := by
  simp [decode, h]

theorem decode_of_cmd_dec {q : Request} (h : q.cmd = 0b10#2) : decode q = .dec q.pke q.ind q.pwe1 q.pwe2 := by
  simp [decode, h]

theorem decode_of_cmd_errq {q : Request} (h : q.cmd = 0b11#2) : decode q = .errq q.code.toInt := by
  simp [decode, h]

/-- Each of the four values of `cmd` selects an operation, so none is left over (R72). -/
theorem cmd_cases (q : Request) : q.cmd = 0b00#2 ∨ q.cmd = 0b01#2 ∨ q.cmd = 0b10#2 ∨ q.cmd = 0b11#2 := by
  generalize q.cmd = c
  revert c
  decide

/-- A request is decoded from the ports its command reads and no other (R70). -/
theorem decode_eq_of_read_ports {q q' : Request} (hcmd : q.cmd = q'.cmd)
    (henc : q.cmd = 0b00#2 ∨ q.cmd = 0b01#2 → q.param = q'.param ∧ q.ak = q'.ak ∧ q.sub = q'.sub)
    (hvalue : q.cmd = 0b01#2 → q.value = q'.value)
    (hdec : q.cmd = 0b10#2 → q.pke = q'.pke ∧ q.ind = q'.ind ∧ q.pwe1 = q'.pwe1 ∧ q.pwe2 = q'.pwe2)
    (herrq : q.cmd = 0b11#2 → q.code = q'.code) : decode q = decode q' := by
  obtain h | h | h | h := cmd_cases q
  · obtain ⟨hparam, hak, hsub⟩ := henc (.inl h)
    rw [decode_of_cmd_encRd h, decode_of_cmd_encRd (hcmd ▸ h), hparam, hak, hsub]
  · obtain ⟨hparam, hak, hsub⟩ := henc (.inr h)
    rw [decode_of_cmd_encWr h, decode_of_cmd_encWr (hcmd ▸ h), hparam, hak, hsub, hvalue h]
  · obtain ⟨hpke, hind, hpwe1, hpwe2⟩ := hdec h
    rw [decode_of_cmd_dec h, decode_of_cmd_dec (hcmd ▸ h), hpke, hind, hpwe1, hpwe2]
  · rw [decode_of_cmd_errq h, decode_of_cmd_errq (hcmd ▸ h), herrq h]

/-! ## Decode after encode -/

theorem decode_encode {i : Instr} (hi : i.wellFormed = true) : decode (encode i) = i := by
  cases i with
  | encRd param ak sub =>
    obtain ⟨hparam, hak, hsub⟩ := wellFormed_encRd_iff.1 hi
    rw [decode_of_cmd_encRd (by rfl)]
    simp only [encode, toInt_ofInt_of_fitsS32, hparam, hak, hsub]
  | encWr param ak sub value =>
    obtain ⟨hparam, hak, hsub⟩ := wellFormed_encWr_iff.1 hi
    rw [decode_of_cmd_encWr (by rfl)]
    simp only [encode, toInt_ofInt_of_fitsS32, hparam, hak, hsub]
  | dec pke ind pwe1 pwe2 => exact decode_of_cmd_dec (by rfl)
  | errq code =>
    rw [decode_of_cmd_errq (by rfl)]
    simp only [encode, toInt_ofInt_of_fitsS32 hi]

theorem decode_wellFormed (q : Request) : (decode q).wellFormed = true := by
  obtain hcmd | hcmd | hcmd | hcmd := cmd_cases q
  · simp [decode_of_cmd_encRd hcmd, wellFormed_encRd_iff]
  · simp [decode_of_cmd_encWr hcmd, wellFormed_encWr_iff]
  · rw [decode_of_cmd_dec hcmd]; rfl
  · simp [decode_of_cmd_errq hcmd, Instr.wellFormed]

theorem encode_decode_cmd (q : Request) : (encode (decode q)).cmd = q.cmd := by
  obtain hcmd | hcmd | hcmd | hcmd := cmd_cases q
  · rw [decode_of_cmd_encRd hcmd, hcmd]; rfl
  · rw [decode_of_cmd_encWr hcmd, hcmd]; rfl
  · rw [decode_of_cmd_dec hcmd, hcmd]; rfl
  · rw [decode_of_cmd_errq hcmd, hcmd]; rfl

/-! ## The flat layout -/

/-- The ports below `code`, as the layout of log entry 6 stacks them. -/
theorem toNat_eq_low_add_code (q : Request) :
    ∃ low, low < 2 ^ 232 ∧ q.toNat = low + 2 ^ 232 * q.code.toNat := by
  have hcmd := q.cmd.isLt
  have hparam := q.param.isLt
  have hak := q.ak.isLt
  have hsub := q.sub.isLt
  have hvalue := q.value.isLt
  have hpke := q.pke.isLt
  have hind := q.ind.isLt
  have hpwe1 := q.pwe1.isLt
  have hpwe2 := q.pwe2.isLt
  exact ⟨_, by omega, rfl⟩

theorem toNat_lt (q : Request) : q.toNat < 2 ^ 264 := by
  obtain ⟨low, hlow, hq⟩ := toNat_eq_low_add_code q
  have hcode : q.code.toNat + 1 ≤ 2 ^ 32 := q.code.isLt
  calc q.toNat < 2 ^ 232 * (q.code.toNat + 1) := by omega
    _ ≤ 2 ^ 232 * 2 ^ 32 := Nat.mul_le_mul_left _ hcode
    _ = 2 ^ 264 := by rw [← pow_add]

/-- Every port is read back from the place it was put. -/
theorem ofNat_toNat (q : Request) : Request.ofNat q.toNat = q := by
  have hcmd := q.cmd.isLt
  have hparam := q.param.isLt
  have hak := q.ak.isLt
  have hsub := q.sub.isLt
  have hvalue := q.value.isLt
  have hpke := q.pke.isLt
  have hind := q.ind.isLt
  have hpwe1 := q.pwe1.isLt
  have hpwe2 := q.pwe2.isLt
  have hcode := q.code.isLt
  obtain ⟨cmd, param, ak, sub, value, pke, ind, pwe1, pwe2, code⟩ := q
  simp only [Request.ofNat, Request.toNat, Request.mk.injEq, ← BitVec.toNat_inj, BitVec.toNat_ofNat] at *
  refine ⟨?_, ?_, ?_, ?_, ?_, ?_, ?_, ?_, ?_, ?_⟩ <;> omega

theorem decodeTableWord_toNat (q : Request) : decodeTableWord 264 q.toNat = some (decode q) := by
  rw [decodeTableWord, Request.ofWord, Nat.mod_eq_of_lt (toNat_lt q), ofNat_toNat]

/-! ## The statements -/

/-- Settles O5, by `decode_encode`: each command's own ports carry its operands. -/
theorem decodeInvertsEncode : Obligations.DecodeInvertsEncode := fun _ hi => decode_encode hi

/-- Settles O6: the layout is injective on requests, and `decode_encode` does the rest. -/
theorem flatWordCarriesEveryRequest : Obligations.FlatWordCarriesEveryRequest := by
  refine ⟨fun q => ⟨toNat_lt q, ofNat_toNat q⟩, fun i hi => ?_⟩
  rw [decodeTableWord_toNat, decode_encode hi]

/-- Settles O7: what is decoded is well formed, so `decode_encode` applies to it. -/
theorem decodeIsTotalAndCanonical : Obligations.DecodeIsTotalAndCanonical := fun q =>
  ⟨decode_wellFormed q, encode_decode_cmd q, decode_encode (decode_wellFormed q)⟩

/-- Settles O4: each word is a closed number. -/
theorem writtenWordsDecode : Obligations.WrittenWordsDecode := by
  unfold Obligations.WrittenWordsDecode
  decide +kernel

end Sys2Proof
end

section
/-! PROOFS. The encoder: the three ways its header ends, the words of a value by format, and what ENC_RD and ENC_WR
answer for them (40_encoder.md R100 to R123, 60_exceptions.md R171 to R173). -/

namespace Sys2Proof.Machine

/-! ## Words as arithmetic -/

theorem toNat_ofInt_word {x : Int} (hlo : 0 ≤ x) (hhi : x < 65536) : ((BitVec.ofInt 16 x).toNat : Int) = x := by
  rw [BitVec.toNat_ofInt]
  omega

/-- The two fields of PKE do not overlap when `rel` has 11 bits, so packing them is adding them. -/
theorem packPke_eq_ofInt {ak rel : Int} (hak : 0 ≤ ak) (hrel : 0 ≤ rel) (hlt : rel < 2048) :
    packPke ak.toNat rel.toNat = BitVec.ofInt 16 (ak * 4096 + rel) := by
  obtain ⟨a, rfl⟩ := Int.eq_ofNat_of_zero_le hak
  obtain ⟨r, rfl⟩ := Int.eq_ofNat_of_zero_le hrel
  have hor : (a <<< 12) ||| r = a * 4096 + r := by
    rw [← Nat.shiftLeft_add_eq_or_of_lt (by omega), Nat.shiftLeft_eq]
  have hsum : (a : Int) * 4096 + r = ((a * 4096 + r : Nat) : Int) := by push_cast; rfl
  rw [packPke, Int.toNat_natCast, Int.toNat_natCast, hor, hsum, BitVec.ofInt_natCast]

/-- The page byte fills the low half of IND. -/
theorem packInd_eq_ofInt {sub : Int} (hsub : 0 ≤ sub) (page : Byte) :
    packInd sub.toNat page.toNat = BitVec.ofInt 16 (sub * 256 + page.toNat) := by
  obtain ⟨b, rfl⟩ := Int.eq_ofNat_of_zero_le hsub
  have hor : (b <<< 8) ||| page.toNat = b * 256 + page.toNat := by
    rw [← Nat.shiftLeft_add_eq_or_of_lt page.isLt, Nat.shiftLeft_eq]
  have hsum : (b : Int) * 256 + page.toNat = ((b * 256 + page.toNat : Nat) : Int) := by push_cast; rfl
  rw [packInd, Int.toNat_natCast, hor, hsum, BitVec.ofInt_natCast]

theorem akInRange_iff {ak : Int} : akInRange ak = true ↔ 0 ≤ ak ∧ ak ≤ 15 := by
  simp [akInRange]

theorem subInRange_iff {sub : Int} : subInRange sub = true ↔ 0 ≤ sub ∧ sub ≤ 255 := by
  simp [subInRange]

/-! ## The bands by their first parameter number -/

/-- Each entry of the band ROM is 2000 wide and its offset is its first number (10_state.md R27). -/
theorem bandRom_offset_and_width : ∀ i : Fin 6,
    (Config.bandRom.get i).offset = (Config.bandRom.get i).lo ∧
    (Config.bandRom.get i).hi.toNat = (Config.bandRom.get i).lo.toNat + 2000 := by decide

theorem mem_specBands_iff {lo : Int} {page : Byte} : (lo, page) ∈ specBands ↔
    ∃ i : Fin 6, ((Config.bandRom.get i).lo.toNat : Int) = lo ∧ (Config.bandRom.get i).page = page := by
  have hlist : specBands = (List.finRange 6).map
      fun i => (((Config.bandRom.get i).lo.toNat : Int), (Config.bandRom.get i).page) := by decide
  simp [hlist]

/-- The band table and the spec's own numbers name the same bands. -/
theorem inBand_iff {p lo : Int} {page : Byte} : InBand p lo page ↔
    ∃ i : Fin 6, bandLookup Config.bandRom p = some i ∧ ((Config.bandRom.get i).offset.toNat : Int) = lo ∧
      (Config.bandRom.get i).page = page := by
  simp only [InBand, mem_specBands_iff, bandLookup_bandRom_eq_some_iff, bandHolds_iff]
  constructor
  · rintro ⟨⟨i, rfl, rfl⟩, hlo, hhi⟩
    obtain ⟨hoffset, hwidth⟩ := bandRom_offset_and_width i
    exact ⟨i, ⟨hlo, by omega⟩, by rw [hoffset], rfl⟩
  · rintro ⟨i, ⟨hlo, hhi⟩, rfl, rfl⟩
    obtain ⟨hoffset, hwidth⟩ := bandRom_offset_and_width i
    rw [hoffset]
    exact ⟨⟨i, rfl, rfl⟩, hlo, by omega⟩

theorem not_unmapped_iff {p : Int} : ¬ Unmapped p ↔ ∃ lo page, InBand p lo page := by
  rw [← bandLookup_bandRom_eq_none_iff, ← ne_eq, Option.ne_none_iff_exists']
  simp only [inBand_iff]
  exact ⟨fun ⟨i, hi⟩ => ⟨_, _, i, hi, rfl, rfl⟩, fun ⟨_, _, i, hi, _⟩ => ⟨i, hi⟩⟩

theorem not_unmapped_of_inBand {p lo : Int} {page : Byte} (h : InBand p lo page) : ¬ Unmapped p :=
  not_unmapped_iff.2 ⟨lo, page, h⟩

/-- A band is 2000 wide and its offset is its first number, so `p - offset` has 11 bits (40_encoder.md R102). -/
theorem relativeParameter_bandRom_bounds {p : Int} {i : Fin 6} (h : bandLookup Config.bandRom p = some i) :
    0 ≤ relativeParameter (Config.bandRom.get i) p ∧ relativeParameter (Config.bandRom.get i) p ≤ 1999 := by
  obtain ⟨hlo, hhi⟩ := bandHolds_iff.1 (bandLookup_some_holds h)
  obtain ⟨hoffset, hwidth⟩ := bandRom_offset_and_width i
  rw [relativeParameter, hoffset]
  omega

/-! ## The header, in the order of its checks (40_encoder.md R113) -/

/-- The operands pass every check of the header. -/
structure HeaderInRange (p ak sub lo : Int) (page : Byte) : Prop where
  band : InBand p lo page
  ak_nonneg : 0 ≤ ak
  ak_le : ak ≤ 15
  sub_nonneg : 0 ≤ sub
  sub_le : sub ≤ 255

theorem encodeHeader_of_unmapped {p ak sub : Int} (h : Unmapped p) :
    encodeHeader Config.bandRom p ak sub = .error (.raised .outOfRangeParameter) := by
  unfold encodeHeader
  rw [bandLookup_bandRom_eq_none_iff.2 h]

theorem encodeHeader_of_out_of_range {p ak sub : Int} (hp : ¬ Unmapped p)
    (h : ¬ (0 ≤ ak ∧ ak ≤ 15) ∨ ¬ (0 ≤ sub ∧ sub ≤ 255)) :
    encodeHeader Config.bandRom p ak sub = .error (.raised .rangeError) := by
  rw [← bandLookup_bandRom_eq_none_iff, ← ne_eq, Option.ne_none_iff_exists'] at hp
  obtain ⟨i, hi⟩ := hp
  rw [← akInRange_iff, ← subInRange_iff, Bool.not_eq_true, Bool.not_eq_true] at h
  unfold encodeHeader
  rw [hi]
  obtain hak | hsub := h
  · simp only [hak, if_true]
  · simp only [hsub, if_true, ite_self]

theorem encodeHeader_of_inRange {p ak sub lo : Int} {page : Byte} (h : HeaderInRange p ak sub lo page) :
    encodeHeader Config.bandRom p ak sub =
      .ok (BitVec.ofInt 16 (ak * 4096 + (p - lo)), BitVec.ofInt 16 (sub * 256 + page.toNat)) := by
  obtain ⟨hband, hak0, hak, hsub0, hsub⟩ := h
  obtain ⟨i, hi, hlo, rfl⟩ := inBand_iff.1 hband
  obtain ⟨hrel0, hrel⟩ := relativeParameter_bandRom_bounds hi
  have hrelEq : relativeParameter (Config.bandRom.get i) p = p - lo := by rw [relativeParameter, hlo]
  rw [hrelEq] at hrel0 hrel
  have hfits : 0 ≤ p - lo ∧ p - lo < 2048 := ⟨hrel0, by omega⟩
  unfold encodeHeader
  rw [hi]
  simp only [akInRange_iff.2 ⟨hak0, hak⟩, subInRange_iff.2 ⟨hsub0, hsub⟩, hrelEq, if_pos hfits, Bool.true_eq_false,
    if_false, packPke_eq_ofInt hak0 hfits.1 hfits.2, packInd_eq_ofInt hsub0]

/-- The three ways the header ends under the band table; the assertion of R102 is not among them. -/
theorem encodeHeader_bandRom_cases (p ak sub : Int) :
    (Unmapped p ∧ encodeHeader Config.bandRom p ak sub = .error (.raised .outOfRangeParameter)) ∨
    (¬ Unmapped p ∧ (¬ (0 ≤ ak ∧ ak ≤ 15) ∨ ¬ (0 ≤ sub ∧ sub ≤ 255)) ∧
      encodeHeader Config.bandRom p ak sub = .error (.raised .rangeError)) ∨
    (∃ lo page, HeaderInRange p ak sub lo page ∧ encodeHeader Config.bandRom p ak sub =
      .ok (BitVec.ofInt 16 (ak * 4096 + (p - lo)), BitVec.ofInt 16 (sub * 256 + page.toNat))) := by
  by_cases hp : Unmapped p
  · exact .inl ⟨hp, encodeHeader_of_unmapped hp⟩
  · by_cases hr : (0 ≤ ak ∧ ak ≤ 15) ∧ (0 ≤ sub ∧ sub ≤ 255)
    · obtain ⟨lo, page, hband⟩ := not_unmapped_iff.1 hp
      have hin : HeaderInRange p ak sub lo page := ⟨hband, hr.1.1, hr.1.2, hr.2.1, hr.2.2⟩
      exact .inr (.inr ⟨lo, page, hin, encodeHeader_of_inRange hin⟩)
    · rw [not_and_or] at hr
      exact .inr (.inl ⟨hp, hr, encodeHeader_of_out_of_range hp hr⟩)

/-- A header that is formed passed every check. -/
theorem encodeHeader_bandRom_ok {p ak sub : Int} {w : Word × Word} (h : encodeHeader Config.bandRom p ak sub = .ok w) :
    ∃ lo page, HeaderInRange p ak sub lo page ∧
      w = (BitVec.ofInt 16 (ak * 4096 + (p - lo)), BitVec.ofInt 16 (sub * 256 + page.toNat)) := by
  obtain ⟨-, he⟩ | ⟨-, -, he⟩ | ⟨lo, page, hin, he⟩ := encodeHeader_bandRom_cases p ak sub
  · cases he.symm.trans h
  · cases he.symm.trans h
  · cases he.symm.trans h
    exact ⟨lo, page, hin, rfl⟩

/-! ## The format and the words of a value -/

theorem formatSelect_eq_word_iff {p : Int} {v : F64} : formatSelect p v = .word ↔
    p = 2051 ∨ p = 2010 ∨ (p ≠ 1082 ∧ p ≠ 845 ∧ v.hasFraction = false) := by
  unfold formatSelect
  split_ifs <;> grind

theorem formatSelect_eq_float_iff {p : Int} {v : F64} : formatSelect p v = .float ↔
    p = 1082 ∨ (p ≠ 2051 ∧ p ≠ 2010 ∧ p ≠ 845 ∧ v.hasFraction = true) := by
  unfold formatSelect
  split_ifs <;> grind

theorem formatSelect_845 (v : F64) : formatSelect 845 v = .fixpt := rfl

theorem convertValue_of_not_finite {tie : TieRule} {p : Int} {v : F64} (h : v.isFinite = false) :
    convertValue tie p v = .error (.raised .valueError) := by
  simp only [convertValue, h, if_true]

theorem convertValue_of_word {tie : TieRule} {p : Int} {v : F64} (h : v.isFinite = true)
    (hf : formatSelect p v = .word) : convertValue tie p v = .ok (convWord v) := by
  simp only [convertValue, h, hf, Bool.true_eq_false, if_false]

theorem convertValue_of_fixpt {tie : TieRule} {p : Int} {v : F64} (h : v.isFinite = true)
    (hf : formatSelect p v = .fixpt) : convertValue tie p v = .ok (convFixpt tie v) := by
  simp only [convertValue, h, hf, Bool.true_eq_false, if_false]

/-- The halves of a binary32 pattern, the high half first. -/
theorem convFloat_of_toF32 {v : F64} {b : F32} (hb : v.toF32 = some b) :
    convFloat v = some (BitVec.ofNat 16 (b.toNat / 65536), BitVec.ofNat 16 (b.toNat % 65536)) := by
  have hhigh : b.extractLsb' 16 16 = BitVec.ofNat 16 (b.toNat / 65536) := by
    apply BitVec.eq_of_toNat_eq
    simp [Nat.shiftRight_eq_div_pow]
  have hlow : b.extractLsb' 0 16 = BitVec.ofNat 16 (b.toNat % 65536) := by
    apply BitVec.eq_of_toNat_eq
    simp
  simp only [convFloat, hb, hhigh, hlow]

theorem convertValue_of_float {tie : TieRule} {p : Int} {v : F64} {b : F32} (h : v.isFinite = true)
    (hf : formatSelect p v = .float) (hb : v.toF32 = some b) : convertValue tie p v =
      .ok (BitVec.ofNat 16 (b.toNat / 65536), BitVec.ofNat 16 (b.toNat % 65536)) := by
  simp only [convertValue, h, hf, convFloat_of_toF32 hb, Bool.true_eq_false, if_false]

theorem convertValue_of_overflow {tie : TieRule} {p : Int} {v : F64} (hf : formatSelect p v = .float)
    (hb : v.toF32 = none) : convertValue tie p v = .error (.raised .valueError) := by
  simp only [convertValue, hf, convFloat, hb, ite_self]

/-- A value is refused exactly when it is not finite or goes FLOAT and overflows (R108, R111). -/
theorem convertValue_cases (tie : TieRule) (p : Int) (v : F64) :
    ((v.isFinite = false ∨ (formatSelect p v = .float ∧ v.toF32 = none)) ∧
      convertValue tie p v = .error (.raised .valueError)) ∨
    (v.isFinite = true ∧ ¬ (formatSelect p v = .float ∧ v.toF32 = none) ∧
      ∃ w, convertValue tie p v = .ok w) := by
  by_cases hfin : v.isFinite = false
  · exact .inl ⟨.inl hfin, convertValue_of_not_finite hfin⟩
  · rw [Bool.not_eq_false] at hfin
    by_cases hover : formatSelect p v = .float ∧ v.toF32 = none
    · exact .inl ⟨.inr hover, convertValue_of_overflow hover.1 hover.2⟩
    · refine .inr ⟨hfin, hover, ?_⟩
      cases hformat : formatSelect p v with
      | word => exact ⟨_, convertValue_of_word hfin hformat⟩
      | fixpt => exact ⟨_, convertValue_of_fixpt hfin hformat⟩
      | float =>
        obtain ⟨b, hb⟩ := Option.ne_none_iff_exists'.1 fun hnone => hover ⟨hformat, hnone⟩
        exact ⟨_, convertValue_of_float hfin hformat hb⟩

/-! ## The two encodes -/

theorem encodeRead_of_header {rom : Vector Band 6} {p ak sub : Int} {w : Word × Word}
    (h : encodeHeader rom p ak sub = .ok w) :
    encodeRead rom p ak sub = .ok { pke := w.1, ind := w.2, pwe1 := 0#16, pwe2 := 0#16 } := by
  simp only [encodeRead, h]

theorem encodeRead_of_header_error {rom : Vector Band 6} {p ak sub : Int} {e : EncodeStop}
    (h : encodeHeader rom p ak sub = .error e) : encodeRead rom p ak sub = .error e := by
  simp only [encodeRead, h]

theorem encodeWrite_of_header_error {rom : Vector Band 6} {tie : TieRule} {p ak sub : Int} {v : F64} {e : EncodeStop}
    (h : encodeHeader rom p ak sub = .error e) : encodeWrite rom tie p ak sub v = .error e := by
  simp only [encodeWrite, h]

theorem encodeWrite_of_value_error {rom : Vector Band 6} {tie : TieRule} {p ak sub : Int} {v : F64} {w : Word × Word}
    {e : EncodeStop} (h : encodeHeader rom p ak sub = .ok w) (hv : convertValue tie p v = .error e) :
    encodeWrite rom tie p ak sub v = .error e := by
  simp only [encodeWrite, h, hv]

theorem encodeWrite_of_ok {rom : Vector Band 6} {tie : TieRule} {p ak sub : Int} {v : F64} {w c : Word × Word}
    (h : encodeHeader rom p ak sub = .ok w) (hv : convertValue tie p v = .ok c) :
    encodeWrite rom tie p ak sub v = .ok { pke := w.1, ind := w.2, pwe1 := c.1, pwe2 := c.2 } := by
  simp only [encodeWrite, h, hv]

/-- How an encode must end for its response to be `r`. -/
def EncResponse.ending : EncResponse → Except EncodeStop Telegram
  | .ok t => .ok t
  | .error k => .error (.raised k)

theorem EncResponse.ending_injective {r r' : EncResponse} (h : r.ending = r'.ending) : r = r' := by
  cases r <;> cases r' <;> cases h <;> rfl

theorem finishEncode_eq_respond_iff {e : Except EncodeStop Telegram} {s : State} {r : EncResponse} :
    finishEncode e s = .next (s.respond (.enc r)) ↔ e = r.ending := by
  have hinj : ∀ {r' : EncResponse}, s.respond (.enc r') = s.respond (.enc r) ↔ r' = r := fun {_} =>
    ⟨fun h => Response.enc.inj (respond_injective s h), fun h => h ▸ rfl⟩
  rcases e with (k | _) | t <;> cases r <;> simp [finishEncode, raiseStatus, EncResponse.ending, hinj]

/-- What ENC_RD answers is what `encodeRead` ends with. -/
theorem answers_encRd_iff {s : State} {p ak sub : Int} {r : EncResponse} :
    Answers (.encRd p ak sub) s (.enc r) ↔ encodeRead s.bandRom p ak sub = r.ending := finishEncode_eq_respond_iff

/-- What ENC_WR answers is what `encodeWrite` ends with. -/
theorem answers_encWr_iff {s : State} {p ak sub : Int} {v : F64} {r : EncResponse} :
    Answers (.encWr p ak sub v) s (.enc r) ↔ encodeWrite s.bandRom Config.fixptTie p ak sub v = r.ending :=
  finishEncode_eq_respond_iff

/-- Under the band table ENC_RD never stops at the assertion. -/
theorem encodeRead_bandRom_ending (p ak sub : Int) :
    ∃ r : EncResponse, encodeRead Config.bandRom p ak sub = r.ending := by
  obtain ⟨-, h⟩ | ⟨-, -, h⟩ | ⟨lo, page, -, h⟩ := encodeHeader_bandRom_cases p ak sub
  · exact ⟨.error .outOfRangeParameter, encodeRead_of_header_error h⟩
  · exact ⟨.error .rangeError, encodeRead_of_header_error h⟩
  · exact ⟨.ok _, encodeRead_of_header h⟩

/-- Under the band table ENC_WR never stops at the assertion. -/
theorem encodeWrite_bandRom_ending (tie : TieRule) (p ak sub : Int) (v : F64) :
    ∃ r : EncResponse, encodeWrite Config.bandRom tie p ak sub v = r.ending := by
  obtain ⟨-, h⟩ | ⟨-, -, h⟩ | ⟨lo, page, -, h⟩ := encodeHeader_bandRom_cases p ak sub
  · exact ⟨.error .outOfRangeParameter, encodeWrite_of_header_error h⟩
  · exact ⟨.error .rangeError, encodeWrite_of_header_error h⟩
  · obtain ⟨-, hv⟩ | ⟨-, -, c, hv⟩ := convertValue_cases tie p v
    · exact ⟨.error .valueError, encodeWrite_of_value_error h hv⟩
    · exact ⟨.ok _, encodeWrite_of_ok h hv⟩

/-- A response whose status is not OK holds no telegram (60_exceptions.md R177). -/
theorem drivenWords_of_status_ne_ok {r : EncResponse} (h : r.status ≠ .ok) :
    r.drivenWords = { pke := 0#16, ind := 0#16, pwe1 := 0#16, pwe2 := 0#16 } := by
  cases r with
  | ok t => exact absurd rfl h
  | error k => rfl

/-! ## The statements -/

/-- Settles O24. -/
theorem failedEncodeDrivesZeroWords : Obligations.FailedEncodeDrivesZeroWords := fun _ => drivenWords_of_status_ne_ok

/-- Settles O20: a header in range, and two zero words. -/
theorem encRdGivesTheTelegram : Obligations.EncRdGivesTheTelegram := by
  rintro s p ak sub lo page ⟨hrom, -⟩ hband hak0 hak hsub0 hsub
  rw [answers_encRd_iff, hrom]
  exact encodeRead_of_header (encodeHeader_of_inRange ⟨hband, hak0, hak, hsub0, hsub⟩)

/-- Settles O25: with the header in range, the value goes WORD. -/
theorem encWrGivesTheWordTelegram : Obligations.EncWrGivesTheWordTelegram := by
  rintro s p ak sub lo page v ⟨hrom, -⟩ hband hak0 hak hsub0 hsub hfin hformat
  rw [answers_encWr_iff, hrom]
  exact encodeWrite_of_ok (encodeHeader_of_inRange ⟨hband, hak0, hak, hsub0, hsub⟩)
    (convertValue_of_word hfin (formatSelect_eq_word_iff.2 hformat))

/-- Settles O26: with the header in range, the value goes FLOAT and does not overflow. -/
theorem encWrGivesTheFloatTelegram : Obligations.EncWrGivesTheFloatTelegram := by
  rintro s p ak sub lo page v b ⟨hrom, -⟩ hband hak0 hak hsub0 hsub hfin hformat hb
  rw [answers_encWr_iff, hrom]
  exact encodeWrite_of_ok (encodeHeader_of_inRange ⟨hband, hak0, hak, hsub0, hsub⟩)
    (convertValue_of_float hfin (formatSelect_eq_float_iff.2 hformat) hb)

/-- Settles O27: 845 lies in the band of page 0 with offset 0, and its format is FIXPT. -/
theorem encWrGivesTheFixedPointTelegram : Obligations.EncWrGivesTheFixedPointTelegram := by
  rintro s ak sub v ⟨hrom, -⟩ hak0 hak hsub0 hsub hfin
  have hband : InBand 845 0 0x00#8 := by decide
  have hheader := encodeHeader_of_inRange ⟨hband, hak0, hak, hsub0, hsub⟩
  have hind : sub * 256 + ((0x00#8).toNat : Int) = sub * 256 := add_zero _
  rw [hind, sub_zero] at hheader
  rw [answers_encWr_iff, hrom]
  exact encodeWrite_of_ok hheader (convertValue_of_fixpt hfin (formatSelect_845 v))

/-- Settles O28: with the header in range, the value is refused. -/
theorem unwritableValueIsValueError : Obligations.UnwritableValueIsValueError := by
  rintro s p ak sub v ⟨hrom, -⟩ hp hak0 hak hsub0 hsub hbad
  obtain ⟨lo, page, hband⟩ := not_unmapped_iff.1 hp
  have hvalue : convertValue Config.fixptTie p v = .error (.raised .valueError) := by
    obtain hfin | ⟨hnone, hformat⟩ := hbad
    · exact convertValue_of_not_finite hfin
    · exact convertValue_of_overflow (formatSelect_eq_float_iff.2 hformat) hnone
  rw [answers_encWr_iff, hrom]
  exact encodeWrite_of_value_error (encodeHeader_of_inRange ⟨hband, hak0, hak, hsub0, hsub⟩) hvalue

/-- Settles O22: the header ends at the check of `ak` or of `sub`, before the value is looked at. -/
theorem akOrSubOutOfRangeIsRangeError : Obligations.AkOrSubOutOfRangeIsRangeError := by
  rintro s p ak sub v ⟨hrom, -⟩ hp hbad
  have hheader : encodeHeader Config.bandRom p ak sub = .error (.raised .rangeError) :=
    encodeHeader_of_out_of_range hp (by omega)
  rw [answers_encRd_iff, answers_encWr_iff, hrom]
  exact ⟨encodeRead_of_header_error hheader, encodeWrite_of_header_error hheader⟩

/-- Only the first check of the header raises OUT_OF_RANGE_PARAMETER. -/
theorem unmapped_of_encodeHeader_error {p ak sub : Int}
    (h : encodeHeader Config.bandRom p ak sub = .error (.raised .outOfRangeParameter)) : Unmapped p := by
  obtain ⟨hp, -⟩ | ⟨-, -, he⟩ | ⟨lo, page, -, he⟩ := encodeHeader_bandRom_cases p ak sub
  · exact hp
  · cases he.symm.trans h
  · cases he.symm.trans h

theorem unmapped_of_encodeRead_error {p ak sub : Int}
    (h : encodeRead Config.bandRom p ak sub = .error (.raised .outOfRangeParameter)) : Unmapped p := by
  cases hheader : encodeHeader Config.bandRom p ak sub with
  | ok w => cases (encodeRead_of_header hheader).symm.trans h
  | error e =>
    cases (encodeRead_of_header_error hheader).symm.trans h
    exact unmapped_of_encodeHeader_error hheader

theorem unmapped_of_encodeWrite_error {tie : TieRule} {p ak sub : Int} {v : F64}
    (h : encodeWrite Config.bandRom tie p ak sub v = .error (.raised .outOfRangeParameter)) : Unmapped p := by
  cases hheader : encodeHeader Config.bandRom p ak sub with
  | ok w =>
    obtain ⟨-, hv⟩ | ⟨-, -, c, hv⟩ := convertValue_cases tie p v
    · cases (encodeWrite_of_value_error hheader hv).symm.trans h
    · cases (encodeWrite_of_ok hheader hv).symm.trans h
  | error e =>
    cases (encodeWrite_of_header_error hheader).symm.trans h
    exact unmapped_of_encodeHeader_error hheader

/-- An answer determines its response. -/
theorem answers_unique {i : Instr} {s : State} {r r' : Response} (h : Answers i s r) (h' : Answers i s r') : r = r' :=
  respond_injective s (Host.Outcome.next.inj (h.symm.trans h'))

/-- Settles O21: of all checks only the first raises this status, and it comes before the others. -/
theorem unmappedParameterIsOutOfRange : Obligations.UnmappedParameterIsOutOfRange := by
  rintro s p ak sub v ⟨hrom, -⟩
  simp only [answers_encRd_iff, answers_encWr_iff, hrom]
  refine ⟨fun hp => ?_, unmapped_of_encodeRead_error, unmapped_of_encodeWrite_error, ?_, ?_⟩
  · have hheader := encodeHeader_of_unmapped (ak := ak) (sub := sub) hp
    exact ⟨encodeRead_of_header_error hheader, encodeWrite_of_header_error hheader⟩
  · intro pke ind pwe1 pwe2 r hr
    rw [← answers_unique (dec_answers pke ind pwe1 pwe2 s) hr]
    rfl
  · intro code r hr
    rw [← answers_unique (errq_answers code s) hr]
    rfl

/-- Settles O23: the cases of the header, then for ENC_WR those of the value. -/
theorem firstFailingCheckDecides : Obligations.FirstFailingCheckDecides := by
  rintro s p ak sub v ⟨hrom, -⟩
  simp only [answers_encRd_iff, answers_encWr_iff, hrom]
  obtain ⟨hp, h⟩ | ⟨hp, hbad, h⟩ | ⟨lo, page, hin, h⟩ := encodeHeader_bandRom_cases p ak sub
  · exact ⟨⟨.error .outOfRangeParameter, encodeRead_of_header_error h, (if_pos hp).symm⟩,
      ⟨.error .outOfRangeParameter, encodeWrite_of_header_error h, (if_pos hp).symm⟩⟩
  · have hstatus : ∀ rest : Status, (if Unmapped p then .error .outOfRangeParameter
        else if ¬ (0 ≤ ak ∧ ak ≤ 15) then .error .rangeError
        else if ¬ (0 ≤ sub ∧ sub ≤ 255) then .error .rangeError else rest) = Status.error .rangeError := by
      intro rest
      rw [if_neg hp]
      obtain hak | hsub := hbad
      · rw [if_pos hak]
      · rw [if_pos hsub, ite_self]
    exact ⟨⟨.error .rangeError, encodeRead_of_header_error h, (hstatus _).symm⟩,
      ⟨.error .rangeError, encodeWrite_of_header_error h, (hstatus _).symm⟩⟩
  · obtain ⟨hband, hak0, hak, hsub0, hsub⟩ := hin
    have hp := not_unmapped_of_inBand hband
    simp only [if_neg hp, hak0, hak, hsub0, hsub, and_self, not_true_eq_false, if_false]
    refine ⟨⟨.ok _, encodeRead_of_header h, rfl⟩, ?_⟩
    obtain ⟨hbad, hv⟩ | ⟨hfin, hover, c, hv⟩ := convertValue_cases Config.fixptTie p v
    · refine ⟨.error .valueError, encodeWrite_of_value_error h hv, ?_⟩
      obtain hfin | hover := hbad
      · rw [if_pos hfin]; rfl
      · rw [if_pos hover, ite_self]; rfl
    · refine ⟨.ok _, encodeWrite_of_ok h hv, ?_⟩
      rw [if_neg (by simp [hfin]), if_neg hover]; rfl

/-- PKE below AK's nibble is the relative parameter alone. -/
theorem extractLsb'_pke_low (ak rel : Int) :
    (BitVec.ofInt 16 (ak * 4096 + rel)).extractLsb' 0 12 = BitVec.ofInt 12 rel := by
  apply BitVec.eq_of_toNat_eq
  simp only [BitVec.extractLsb'_toNat, BitVec.toNat_ofInt, Nat.shiftRight_zero]
  omega

/-- Two values of `ak` in range get the same status from the header, and words that differ in AK's nibble alone. -/
theorem encodeHeader_bandRom_ak_cases (p sub : Int) {ak ak' : Int} (hak : 0 ≤ ak ∧ ak ≤ 15)
    (hak' : 0 ≤ ak' ∧ ak' ≤ 15) :
    (∃ k, encodeHeader Config.bandRom p ak sub = .error (.raised k) ∧
      encodeHeader Config.bandRom p ak' sub = .error (.raised k)) ∨
    (∃ rel ind, encodeHeader Config.bandRom p ak sub = .ok (BitVec.ofInt 16 (ak * 4096 + rel), ind) ∧
      encodeHeader Config.bandRom p ak' sub = .ok (BitVec.ofInt 16 (ak' * 4096 + rel), ind)) := by
  obtain ⟨hp, h⟩ | ⟨hp, hbad, h⟩ | ⟨lo, page, hin, h⟩ := encodeHeader_bandRom_cases p ak sub
  · exact .inl ⟨_, h, encodeHeader_of_unmapped hp⟩
  · have hsub := hbad.resolve_left (not_not_intro hak)
    exact .inl ⟨_, h, encodeHeader_of_out_of_range hp (.inr hsub)⟩
  · have hin' : HeaderInRange p ak' sub lo page := { hin with ak_nonneg := hak'.1, ak_le := hak'.2 }
    exact .inr ⟨_, _, h, encodeHeader_of_inRange hin'⟩

/-- Settles O29: the header differs in AK's nibble alone, and the value's words do not depend on `ak`. -/
theorem akFillsOnlyItsNibble : Obligations.AkFillsOnlyItsNibble := by
  rintro s p ak ak' sub v r r' ⟨hrom, -⟩ hak0 hak hak0' hak' hr hr'
  rw [answers_encWr_iff, hrom] at hr hr'
  have ending_eq : ∀ {r₁ r₂ : EncResponse}, encodeWrite Config.bandRom Config.fixptTie p ak sub v = r₁.ending →
      encodeWrite Config.bandRom Config.fixptTie p ak' sub v = r₂.ending → r = r₁ ∧ r' = r₂ := fun h₁ h₂ =>
    ⟨EncResponse.ending_injective (hr.symm.trans h₁), EncResponse.ending_injective (hr'.symm.trans h₂)⟩
  obtain ⟨k, h, h'⟩ | ⟨rel, ind, h, h'⟩ := encodeHeader_bandRom_ak_cases p sub ⟨hak0, hak⟩ ⟨hak0', hak'⟩
  · obtain ⟨rfl, rfl⟩ := ending_eq (r₁ := .error k) (r₂ := .error k) (encodeWrite_of_header_error h)
      (encodeWrite_of_header_error h')
    exact ⟨rfl, rfl, rfl, rfl, rfl⟩
  · obtain ⟨-, hv⟩ | ⟨-, -, c, hv⟩ := convertValue_cases Config.fixptTie p v
    · obtain ⟨rfl, rfl⟩ := ending_eq (r₁ := .error .valueError) (r₂ := .error .valueError)
        (encodeWrite_of_value_error h hv) (encodeWrite_of_value_error h' hv)
      exact ⟨rfl, rfl, rfl, rfl, rfl⟩
    · obtain ⟨rfl, rfl⟩ := ending_eq (r₁ := .ok _) (r₂ := .ok _) (encodeWrite_of_ok h hv) (encodeWrite_of_ok h' hv)
      exact ⟨rfl, rfl, rfl, rfl, (extractLsb'_pke_low ak rel).trans (extractLsb'_pke_low ak' rel).symm⟩

/-- The header of a telegram that either encode answers with. -/
theorem encodeHeader_of_answers {s : State} {i : Instr} {p ak sub : Int} {t : Telegram}
    (hi : i = .encRd p ak sub ∨ ∃ v, i = .encWr p ak sub v) (h : Answers i s (.enc (.ok t))) :
    encodeHeader s.bandRom p ak sub = .ok (t.pke, t.ind) := by
  obtain rfl | ⟨v, rfl⟩ := hi
  · obtain ⟨hheader, -, -⟩ := encodeRead_ok (answers_encRd_iff.1 h)
    exact hheader
  · obtain ⟨hheader, -⟩ := encodeWrite_ok (answers_encWr_iff.1 h)
    exact hheader

/-- PKE and IND of an encoded telegram as numbers: the sum of their fields, without loss. -/
theorem encoded_words {s : State} {i : Instr} {p ak sub : Int} {t : Telegram} (hs : s.romsOk)
    (hi : i = .encRd p ak sub ∨ ∃ v, i = .encWr p ak sub v) (h : Answers i s (.enc (.ok t))) :
    ∃ lo page, HeaderInRange p ak sub lo page ∧ (t.pke.toNat : Int) = ak * 4096 + (p - lo) ∧
      (t.ind.toNat : Int) = sub * 256 + page.toNat := by
  have hheader := encodeHeader_of_answers hi h
  rw [hs.1] at hheader
  obtain ⟨lo, page, hin, hwords⟩ := encodeHeader_bandRom_ok hheader
  obtain ⟨hpke, hind⟩ := Prod.mk.inj hwords
  refine ⟨lo, page, hin, ?_, ?_⟩
  all_goals
    obtain ⟨⟨-, hlo, hhi⟩, hak0, hak, hsub0, hsub⟩ := hin
    have hpage := page.isLt
  · rw [hpke]
    exact toNat_ofInt_word (by omega) (by omega)
  · rw [hind]
    exact toNat_ofInt_word (by omega) (by omega)

/-- Settles O30: a relative parameter below 2000 leaves PKE's bit 11 and AK's nibble alone, as does a page byte IND's
high half. -/
theorem everyEncodedTelegramObeysTheLaws : Obligations.EveryEncodedTelegramObeysTheLaws := by
  intro s i p ak sub t hs hi h
  obtain ⟨lo, page, hin, hpke, hind⟩ := encoded_words hs hi h
  obtain ⟨hband, hak0, hak, hsub0, hsub⟩ := hin
  have hpage := page.isLt
  obtain ⟨hlo, hhi⟩ := hband.2
  have hbit : t.pke.toNat / 2 ^ 11 % 2 = 0 := by omega
  refine ⟨?_, lo, page, hband, by omega, by omega, by omega, by omega⟩
  rw [← BitVec.testBit_toNat, Nat.testBit_eq_decide_div_mod_eq, hbit]
  rfl

end Sys2Proof.Machine
end

section
/-! PROOFS. The step and the run: one request is taken, its instruction adds one response that depends on the two ROMs
alone, and so does every response of a run (70_reset_and_hazards.md R194, R196; 60_exceptions.md R179). -/

namespace Sys2Proof.Machine

/-! ## One step -/

theorem takeRequest_cons {s : State} {q : Request} {rest : List Request} (h : s.requests = q :: rest) :
    takeRequest s = some (q, { s with requests := rest }) := takeRequest_eq_some.2 ⟨h, rfl⟩

theorem step_cons {s : State} {q : Request} {rest : List Request} (h : s.requests = q :: rest) :
    step s = exec (decode q) { s with requests := rest } := by
  simp only [step, takeRequest_cons h]

theorem step_nil {s : State} (h : s.requests = []) : step s = .fault .noRequest := by
  simp only [step, takeRequest, h]

/-! ## One instruction: its response as a function of the ROMs -/

/-- The response an encode ends with. The assertion of 40_encoder.md R102 has none; the value given there is not used
(`encResponseOf_ending`). -/
def encResponseOf : Except EncodeStop Telegram → EncResponse
  | .ok t => .ok t
  | .error (.raised k) => .error k
  | .error .relativeTooWide => .error .outOfRangeParameter

@[simp] theorem encResponseOf_ending (r : EncResponse) : encResponseOf r.ending = r := by
  cases r <;> rfl

/-- The response of each operation, as a function of the two ROMs. -/
def responseOf (bands : Vector Band 6) (errs : List ErrEntry) : Instr → Response
  | .encRd param ak sub => .enc (encResponseOf (encodeRead bands param ak sub))
  | .encWr param ak sub value => .enc (encResponseOf (encodeWrite bands Config.fixptTie param ak sub value))
  | .dec pke ind pwe1 pwe2 => .dec (decodeTelegram bands errs pke ind pwe1 pwe2)
  | .errq code => .errq (queryError errs code)

/-- While the ROMs hold their contents every instruction answers, with `responseOf`. -/
theorem answers_responseOf {s : State} (hs : s.romsOk) (i : Instr) :
    Answers i s (responseOf s.bandRom s.errRom i) := by
  obtain ⟨hrom, -⟩ := hs
  cases i with
  | encRd param ak sub =>
    obtain ⟨r, hr⟩ := encodeRead_bandRom_ending param ak sub
    rw [← hrom] at hr
    rw [responseOf, hr, encResponseOf_ending]
    exact answers_encRd_iff.2 hr
  | encWr param ak sub value =>
    obtain ⟨r, hr⟩ := encodeWrite_bandRom_ending Config.fixptTie param ak sub value
    rw [← hrom] at hr
    rw [responseOf, hr, encResponseOf_ending]
    exact answers_encWr_iff.2 hr
  | dec pke ind pwe1 pwe2 => exact dec_answers pke ind pwe1 pwe2 s
  | errq code => exact errq_answers code s

/-- While the ROMs hold their contents, a step serves the first request and adds its response. -/
theorem step_of_romsOk {s : State} {q : Request} {rest : List Request} (hs : s.romsOk) (h : s.requests = q :: rest) :
    step s = .next { s with
      requests := rest, responses := s.responses ++ [responseOf s.bandRom s.errRom (decode q)] } := by
  rw [step_cons h]
  exact answers_responseOf (s := { s with requests := rest }) hs (decode q)

/-! ## The run, by induction on the requests still to come -/

theorem run_of_romsOk (pending : List Request) : ∀ s : State, s.romsOk → s.requests = pending →
    Host.Core.run Sys2Proof.core pending.length s = .next { s with
      requests := [], responses := s.responses ++ pending.map fun q => responseOf s.bandRom s.errRom (decode q) } := by
  induction pending with
  | nil =>
    intro s _ hpending
    rw [List.length_nil, run_zero, List.map_nil, List.append_nil, ← hpending]
  | cons q rest ih =>
    intro s hs hpending
    rw [List.length_cons, run_succ_of_next (step_of_romsOk hs hpending)]
    refine Eq.trans (ih _ (romsOk_of_same_roms rfl rfl hs) rfl) ?_
    simp only [List.map_cons, List.append_assoc, List.singleton_append]

/-! ## The statements -/

/-- Settles O1. -/
theorem stepRunsDecodedRequest : Obligations.StepRunsDecodedRequest := fun _ _ _ h => step_cons h

/-- Settles O2: `withFetchWord` puts the request in front, and the step takes it off again. -/
theorem presentedWordRunsAsDecoded : Obligations.PresentedWordRunsAsDecoded := by
  intro s nbits w i hi
  have hdecode : decode (Request.ofWord nbits w) = i := Option.some.inj hi
  rw [step_cons (withFetchWord_requests s nbits w), hdecode]
  rfl

/-- Settles O3. -/
theorem emptyRunHasNoStep : Obligations.EmptyRunHasNoStep := fun _ => step_nil

/-- Settles O8: such requests decode to the same instruction. -/
theorem unreadPortsHaveNoEffect : Obligations.UnreadPortsHaveNoEffect := by
  intro s q q' rest hcmd henc hvalue hdec herrq
  rw [step_cons rfl, step_cons rfl, decode_eq_of_read_ports hcmd henc hvalue hdec herrq]

/-- Settles O10. -/
theorem resetSatisfiesRomInvariant : Obligations.ResetSatisfiesRomInvariant :=
  ⟨⟨reset_bandRom, Config.errRom.admissible⟩, reset_requests, reset_responses⟩

/-- Settles O11, from the facts about the band table. -/
theorem bandsAreDisjointAndPagesDistinct : Obligations.BandsAreDisjointAndPagesDistinct := by
  rintro s ⟨hrom, -⟩ i
  rw [hrom]
  obtain ⟨hoffset, hwidth⟩ := bandRom_offset_and_width i
  exact ⟨hoffset, hwidth, fun j hij => ⟨mt (bandRom_page_injective i j) hij, bandRom_ranges_disjoint i j hij⟩⟩

/-- Settles O13: the step takes the first request, and its instruction drives one response. -/
theorem stepAddsExactlyOneResponse : Obligations.StepAddsExactlyOneResponse := by
  intro s t h
  obtain ⟨q, rest, hq, hexec⟩ := step_next_cases h
  obtain ⟨r, rfl⟩ := exec_next_respond hexec
  exact ⟨q, r, hq, rfl, hexec⟩

/-- Settles O14: whatever answers drives one response, and each unit drives its own. -/
theorem execChangesOnlyTheRecord : Obligations.ExecChangesOnlyTheRecord := by
  intro i s t h
  have hrequests : t.requests = s.requests := by
    obtain ⟨r, rfl⟩ := exec_next_respond h
    exact respond_requests s r
  refine ⟨exec_keeps_bandRom h, exec_keeps_errRom h, hrequests, ?_⟩
  cases i with
  | encRd param ak sub =>
    obtain ⟨r, rfl⟩ := execEncRd_next h
    exact ⟨r, rfl⟩
  | encWr param ak sub value =>
    obtain ⟨r, rfl⟩ := execEncWr_next h
    exact ⟨r, rfl⟩
  | dec pke ind pwe1 pwe2 => cases h; exact ⟨_, rfl⟩
  | errq code => cases h; exact ⟨_, rfl⟩

/-- Settles O15. -/
theorem everyPresentedRequestIsAnswered : Obligations.EveryPresentedRequestIsAnswered :=
  fun _ _ _ hs h => ⟨_, step_of_romsOk hs h⟩

/-- Settles O16: the function is `responseOf` of the decoded request. -/
theorem runAnswersEachRequestByItself : Obligations.RunAnswersEachRequestByItself :=
  ⟨fun bands errs q => responseOf bands errs (decode q), fun s hs => run_of_romsOk s.requests s hs rfl⟩

/-- Settles O17: the run of all requests ends with none left. -/
theorem everyRunIsSafe : Obligations.EveryRunIsSafe := fun s hs => ⟨_, run_of_romsOk s.requests s hs rfl, rfl⟩

/-- Settles O19: the relative parameter has 11 bits, and an instruction that answers does not fault. -/
theorem relativeParameterAlwaysFits : Obligations.RelativeParameterAlwaysFits := by
  intro s hs
  refine ⟨fun p i hi => ?_, fun i f hfault => ?_⟩
  · rw [hs.1] at hi ⊢
    exact relativeParameter_bandRom_bounds hi
  · cases (answers_responseOf hs i).symm.trans hfault

end Sys2Proof.Machine
end

section
/-! PROOFS. The decoder: the parameter, the three payloads and the error lookups (41_decoder.md R142 to R151). -/

namespace Sys2Proof.Machine

/-! ## The parameter -/

theorem decodedParameter_toNat {raw : BitVec 11} {offset : BitVec 16} (h : raw.toNat + offset.toNat < 65536) :
    (decodedParameter raw offset).toNat = raw.toNat + offset.toNat := by
  have hraw := raw.isLt
  rw [decodedParameter, BitVec.toNat_add, BitVec.toNat_setWidth]
  omega

theorem offsetOfPage_le (page : Byte) : offsetOfPage page ≤ 60000 := by
  unfold offsetOfPage
  split_ifs <;> omega

/-- No offset of the band table is so large that an 11-bit number could carry the sum past 16 bits. -/
theorem revLookup_bandRom_le (page : Byte) : (revLookup Config.bandRom page).toNat ≤ 60000 :=
  (revLookup_bandRom_toNat page).trans_le (offsetOfPage_le page)

/-- Settles O41: raw is at most 2047 and the offset at most 60000. -/
theorem decodedParameterIsRawPlusOffset : Obligations.DecodedParameterIsRawPlusOffset := by
  rintro s pke ind pwe1 pwe2 ⟨hrom, -⟩
  have hraw := (rawField pke).isLt
  have hoffset := revLookup_bandRom_le (pageField ind)
  rw [← hrom] at hoffset
  have hsum := decodedParameter_toNat (raw := rawField pke) (offset := revLookup s.bandRom (pageField ind)) (by omega)
  exact ⟨_, dec_answers pke ind pwe1 pwe2 s, hsum, hsum.trans_le (by omega)⟩

/-! ## PKE bit 11 -/

theorem akField_or_bit11 (pke : Word) : akField (pke ||| 0x0800#16) = akField pke := by
  have hbit : (0x0800#16).extractLsb' 12 4 = 0#4 := by decide
  rw [akField, BitVec.extractLsb'_or, hbit, BitVec.or_zero, akField]

theorem rawField_or_bit11 (pke : Word) : rawField (pke ||| 0x0800#16) = rawField pke := by
  have hbit : (0x0800#16).extractLsb' 0 11 = 0#11 := by decide
  rw [rawField, BitVec.extractLsb'_or, hbit, BitVec.or_zero, rawField]

/-- Settles O46: bit 11 lies in neither field of PKE, so only the echo differs. -/
theorem decIgnoresPkeBitEleven : Obligations.DecIgnoresPkeBitEleven := by
  intro s pke ind pwe1 pwe2 r hr
  obtain rfl := Response.dec.inj (answers_unique (dec_answers pke ind pwe1 pwe2 s) hr)
  have htelegram : decodeTelegram s.bandRom s.errRom (pke ||| 0x0800#16) ind pwe1 pwe2 =
      { decodeTelegram s.bandRom s.errRom pke ind pwe1 pwe2 with pke := pke ||| 0x0800#16 } := by
    simp only [decodeTelegram, akField_or_bit11, rawField_or_bit11]
  rw [← htelegram]
  exact dec_answers (pke ||| 0x0800#16) ind pwe1 pwe2 s

/-! ## The float path -/

theorem interpret_of_float {rom : List ErrEntry} {ak : BitVec 4} {pwe1 pwe2 : Word}
    (h : resultKind ak pwe1 = .float) : interpret rom ak pwe1 pwe2 = .float (pwe1 ++ pwe2) := by
  simp only [interpret, h]

/-- PWE1 is the high half of the pattern. -/
theorem toNat_append_words (high low : Word) : (high ++ low).toNat = high.toNat * 65536 + low.toNat := by
  rw [BitVec.toNat_append, ← Nat.shiftLeft_add_eq_or_of_lt low.isLt, Nat.shiftLeft_eq]

/-- Settles O45: with AK not 7 and PWE1 not zero the kind selected is FLOAT. -/
theorem floatPathKeepsThePattern : Obligations.FloatPathKeepsThePattern := by
  intro s pke ind pwe1 pwe2 hak hpwe1
  have hkind : resultKind (akField pke) pwe1 = .float := by
    rw [resultKind, if_neg (mt akField_eq_seven_iff.1 hak), if_pos hpwe1]
  exact ⟨_, _, dec_answers pke ind pwe1 pwe2 s, interpret_of_float hkind, toNat_append_words pwe1 pwe2⟩

/-! ## The error lookups -/

/-- A lookup hits exactly on the keys of the error ROM. -/
theorem errReport_errHit_iff {rom : List ErrEntry} {code : Word} :
    (errReport rom code).errHit = true ↔ code ∈ rom.map (·.key) := by
  rw [List.mem_map]
  obtain ⟨text, hmem, heq⟩ | ⟨hmiss, heq⟩ := errReport_cases rom code
  · exact iff_of_true (by rw [heq]) ⟨_, hmem, rfl⟩
  · exact iff_of_false (by rw [heq]; exact Bool.false_ne_true) fun ⟨e, he, hkey⟩ => hmiss e he hkey

theorem errReport_text_mem {rom : List ErrEntry} {code : Word} (h : (errReport rom code).errHit = true) :
    (⟨code, (errReport rom code).errText⟩ : ErrEntry) ∈ rom := by
  obtain ⟨text, hmem, heq⟩ | ⟨-, heq⟩ := errReport_cases rom code
  · rw [heq]; exact hmem
  · rw [heq] at h; cases h

theorem errReport_text_of_miss {rom : List ErrEntry} {code : Word} (h : (errReport rom code).errHit = false) :
    (errReport rom code).errText = "Unknown error code" := by
  obtain ⟨text, -, heq⟩ | ⟨-, heq⟩ := errReport_cases rom code
  · rw [heq] at h; cases h
  · rw [heq]; rfl

theorem interpret_of_error {rom : List ErrEntry} {ak : BitVec 4} {pwe1 pwe2 : Word}
    (h : resultKind ak pwe1 = .error) :
    interpret rom ak pwe1 pwe2 = .error pwe2 (errReport rom pwe2).errHit (errReport rom pwe2).errText := by
  simp only [interpret, h]

theorem resultKind_of_ak_seven {pke : Word} (h : pke.toNat / 4096 = 7) (pwe1 : Word) :
    resultKind (akField pke) pwe1 = .error := by
  rw [resultKind_akField, if_pos h]

/-- Settles O43: AK 7 selects ERROR whatever PWE1 is, and the payload is the report on PWE2. -/
theorem errorPathLooksUpPwe2 : Obligations.ErrorPathLooksUpPwe2 := by
  intro s pke ind pwe1 pwe2 hak
  have hpayload : ∀ w : Word, interpret s.errRom (akField pke) w pwe2 =
      .error pwe2 (errReport s.errRom pwe2).errHit (errReport s.errRom pwe2).errText := fun w =>
    interpret_of_error (resultKind_of_ak_seven hak w)
  exact ⟨_, _, _, dec_answers pke ind pwe1 pwe2 s, hpayload pwe1, rfl, errReport_errHit_iff, errReport_text_mem,
    errReport_text_of_miss, fun w => ⟨_, dec_answers pke ind w pwe2 s, (hpayload w).trans (hpayload pwe1).symm⟩⟩

/-- A code in u16 is its own key. -/
theorem key_eq_ofInt_iff {key : Word} {code : Int} (hlo : 0 ≤ code) (hhi : code ≤ 65535) :
    key = BitVec.ofInt 16 code ↔ (key.toNat : Int) = code := by
  have hword := toNat_ofInt_word hlo (by omega : code < 65536)
  rw [← BitVec.toNat_inj]
  omega

/-- The answer to a query: the text of an entry whose key is the code, or a miss when there is none, as for every code
outside u16 (41_decoder.md R151). -/
theorem queryError_cases (rom : List ErrEntry) (code : Int) :
    (∃ e ∈ rom, (e.key.toNat : Int) = code ∧ queryError rom code = { errHit := true, errText := e.text }) ∨
    ((∀ e ∈ rom, (e.key.toNat : Int) ≠ code) ∧
      queryError rom code = { errHit := false, errText := Config.unknownText }) := by
  unfold queryError
  split_ifs with hrange
  · refine .inr ⟨fun e _ => ?_, rfl⟩
    have hkey := e.key.isLt
    omega
  · have hlo : 0 ≤ code := by omega
    have hhi : code ≤ 65535 := by omega
    obtain ⟨text, hmem, heq⟩ | ⟨hmiss, heq⟩ := errReport_cases rom (BitVec.ofInt 16 code)
    · exact .inl ⟨_, hmem, (key_eq_ofInt_iff hlo hhi).1 rfl, heq⟩
    · exact .inr ⟨fun e he => mt (key_eq_ofInt_iff hlo hhi).2 (hmiss e he), heq⟩

/-- A code that is a key hits. -/
theorem queryError_of_key {rom : List ErrEntry} {code : Int} (h : ∃ e ∈ rom, (e.key.toNat : Int) = code) :
    ∃ e ∈ rom, (e.key.toNat : Int) = code ∧ queryError rom code = { errHit := true, errText := e.text } := by
  obtain ⟨e, he, hkey⟩ := h
  exact (queryError_cases rom code).resolve_right fun hmiss => hmiss.1 e he hkey

/-- Settles O48: a hit is on an entry whose key is the code, and no key lies outside u16. -/
theorem errqReportsTheText : Obligations.ErrqReportsTheText := by
  intro s code
  have hanswers := errq_answers code s
  obtain ⟨e, he, hkey, heq⟩ | ⟨hmiss, heq⟩ := queryError_cases s.errRom code
  · rw [heq] at hanswers
    refine ⟨true, e.text, hanswers, fun _ => ⟨e, he, hkey, rfl⟩, nofun, fun hrange => ?_⟩
    have hlt := e.key.isLt
    omega
  · rw [heq] at hanswers
    exact ⟨false, Config.unknownText, hanswers, nofun, fun _ => ⟨rfl, hmiss⟩, fun _ => rfl⟩

/-- Settles O47: both lookups hit exactly on keys, `errReport_errHit_iff` for DEC and `queryError_cases` for ERRQ. -/
theorem errHitExactlyOnKeys : Obligations.ErrHitExactlyOnKeys := by
  refine fun s => ⟨fun pke ind pwe1 pwe2 r hr hkind => ?_, fun code r hr => ?_⟩
  · obtain rfl := Response.dec.inj (answers_unique (dec_answers pke ind pwe1 pwe2 s) hr)
    have hpayload : (decodeTelegram s.bandRom s.errRom pke ind pwe1 pwe2).payload =
        .error pwe2 (errReport s.errRom pwe2).errHit (errReport s.errRom pwe2).errText :=
      interpret_of_error ((interpret_kind s.errRom (akField pke) pwe1 pwe2).symm.trans hkind)
    have hhit : (errReport s.errRom pwe2).errHit = decide (∃ e ∈ s.errRom, e.key = pwe2) :=
      Bool.eq_iff_iff.2 (errReport_errHit_iff.trans (List.mem_map.trans decide_eq_true_iff.symm))
    refine ⟨?_, fun c text hmiss => ?_, rfl⟩
    · simp only [Response.errHit, hpayload, Payload.drivenErrCode, hhit]
    · obtain ⟨-, hfalse, rfl⟩ := Payload.error.inj (hpayload.symm.trans hmiss)
      exact errReport_text_of_miss hfalse
  · obtain rfl := answers_unique (errq_answers code s) hr
    obtain ⟨e, he, hkey, heq⟩ | ⟨hmiss, heq⟩ := queryError_cases s.errRom code
    · rw [heq]
      exact ⟨congrArg some (decide_eq_true ⟨e, he, hkey⟩).symm, nofun, rfl⟩
    · rw [heq]
      have hnone : ¬ ∃ e ∈ s.errRom, (e.key.toNat : Int) = code := fun ⟨e, he, hkey⟩ => hmiss e he hkey
      refine ⟨congrArg some (decide_eq_false hnone).symm, fun text htext => ?_, rfl⟩
      cases htext
      rfl

/-- Settles O49: R28 puts the three keys in the ROM, and the key 0 only once, with its text. -/
theorem knownErrorCodesHit : Obligations.KnownErrorCodesHit := by
  rintro s ⟨-, -, hnodup, h7, h204, h0⟩
  have hits : ∀ key : Word, key ∈ s.errRom.map (·.key) → ∃ e ∈ s.errRom, e.key = key ∧
      Answers (.errq key.toNat) s (.errq { errHit := true, errText := e.text }) := by
    intro key hkey
    obtain ⟨e, he, rfl⟩ := List.mem_map.1 hkey
    obtain ⟨e', he', hkey', heq⟩ := queryError_of_key ⟨e, he, rfl⟩
    exact ⟨e', he', BitVec.eq_of_toNat_eq (Int.natCast_inj.1 hkey'), heq ▸ errq_answers (e.key.toNat : Int) s⟩
  refine ⟨?_, ?_, ?_⟩
  · obtain ⟨e, he, hkey, hanswers⟩ := hits 0#16 (List.mem_map.2 ⟨_, h0, rfl⟩)
    obtain rfl := List.inj_on_of_nodup_map hnodup he h0 hkey
    exact hanswers
  · obtain ⟨e, -, -, hanswers⟩ := hits 7#16 h7
    exact ⟨e.text, hanswers⟩
  · obtain ⟨e, -, -, hanswers⟩ := hits 204#16 h204
    exact ⟨e.text, hanswers⟩

end Sys2Proof.Machine
end

section
/-! PROOFS. DEC of an encoded telegram: the parameter, AK and the subindex come back, and what comes back of a written
value depends on its format (41_decoder.md R152, R153). -/

namespace Sys2Proof.Machine

/-! ## The parameter, AK and the subindex -/

/-- The reverse lookup of a band's page byte gives the band's first number. -/
theorem revLookup_of_inBand {p lo : Int} {page : Byte} (h : InBand p lo page) :
    ((revLookup Config.bandRom page).toNat : Int) = lo := by
  obtain ⟨i, -, rfl, rfl⟩ := inBand_iff.1 h
  rw [revLookup_bandRom_page]

theorem pageField_of_sum {ind : Word} {sub : Int} {page : Byte} (h : (ind.toNat : Int) = sub * 256 + page.toNat) :
    pageField ind = page := by
  have hpage := page.isLt
  rw [pageField_eq_ofNat]
  apply BitVec.eq_of_toNat_eq
  rw [BitVec.toNat_ofNat]
  omega

/-- Settles O51: the page byte names the band, whose first number is added to the relative parameter again. -/
theorem decodeAfterEncodeGivesBackTheParameter : Obligations.DecodeAfterEncodeGivesBackTheParameter := by
  intro s i p ak sub t hs hi h
  obtain ⟨lo, page, ⟨hband, hak0, hak, hsub0, hsub⟩, hpke, hind⟩ := encoded_words hs hi h
  have hpage := page.isLt
  obtain ⟨hlo, hhi⟩ := hband.2
  obtain ⟨r, hr, hsum, -⟩ := decodedParameterIsRawPlusOffset s t.pke t.ind t.pwe1 t.pwe2 hs
  obtain rfl := Response.dec.inj (answers_unique (dec_answers t.pke t.ind t.pwe1 t.pwe2 s) hr)
  have hraw : (rawField t.pke).toNat = t.pke.toNat % 2048 := rawField_toNat t.pke
  have hoffset : ((revLookup s.bandRom (pageField t.ind)).toNat : Int) = lo := by
    rw [hs.1, pageField_of_sum hind]
    exact revLookup_of_inBand hband
  have hakField : (akField t.pke).toNat = t.pke.toNat / 4096 := akField_toNat t.pke
  have hsubField : (subField t.ind).toNat = t.ind.toNat / 256 := subField_toNat t.ind
  simp only [decodeTelegram] at hsum
  exact ⟨_, hr, by simp only [decodeTelegram]; omega, by simp only [decodeTelegram]; omega,
    by simp only [decodeTelegram]; omega⟩

/-! ## The value -/

/-- The value's words in the telegram of a write. -/
theorem written_value_words {s : State} {p ak sub : Int} {v : F64} {t : Telegram}
    (h : Answers (.encWr p ak sub v) s (.enc (.ok t))) :
    v.isFinite = true ∧ convertValue Config.fixptTie p v = .ok (t.pwe1, t.pwe2) := by
  obtain ⟨-, hvalue⟩ := encodeWrite_ok (answers_encWr_iff.1 h)
  obtain ⟨hfin, -⟩ := convertValue_ok hvalue
  exact ⟨hfin, hvalue⟩

/-- Only a write with AK 7 reads back as an error. -/
theorem written_ak_ne_seven {s : State} {p ak sub : Int} {v : F64} {t : Telegram} (hs : s.romsOk) (hak7 : ak ≠ 7)
    (h : Answers (.encWr p ak sub v) s (.enc (.ok t))) : t.pke.toNat / 4096 ≠ 7 := by
  obtain ⟨lo, page, ⟨hband, -⟩, hpke, -⟩ := encoded_words hs (.inr ⟨v, rfl⟩) h
  obtain ⟨hlo, hhi⟩ := hband.2
  omega

theorem toNat_ofInt_emod (x : Int) : ((BitVec.ofInt 16 x).toNat : Int) = x % 65536 := by
  rw [BitVec.toNat_ofInt]
  omega

/-- A whole value that is not negative is its own truncation. -/
theorem trunc_of_mag_eq {v : F64} {n : Nat} (hneg : v.negative = false) (hmag : v.mag = n * F64.one) :
    v.trunc = n := by
  rw [F64.trunc, hmag, Nat.mul_div_cancel n F64.one_pos, F64.signed, hneg]
  rfl

/-- Settles O52: a WORD telegram has PWE1 zero, so DEC reports PWE2, the truncated value. -/
theorem wordWriteReadsBackModulo : Obligations.WordWriteReadsBackModulo := by
  intro s p ak sub v t hs hak7 hformat h
  obtain ⟨hfin, hvalue⟩ := written_value_words h
  obtain ⟨hpwe1, hpwe2⟩ := Prod.mk.inj (Except.ok.inj (hvalue.symm.trans (convertValue_of_word hfin hformat)))
  obtain ⟨r, hr, hpayload⟩ :=
    wordPathReportsPwe2 s t.pke t.ind t.pwe1 t.pwe2 (written_ak_ne_seven hs hak7 h) hpwe1
  have hword : (t.pwe2.toNat : Int) = v.trunc % 65536 := by rw [hpwe2, toNat_ofInt_emod]
  refine ⟨r, t.pwe2, hr, hpayload, hword, fun n hn hneg hmag => ?_⟩
  have htrunc := trunc_of_mag_eq hneg hmag
  omega

/-- Settles O53: PWE1 is the high half of the pattern, and the two halves make it up again. -/
theorem floatWriteReadsBackUnlessHighHalfZero : Obligations.FloatWriteReadsBackUnlessHighHalfZero := by
  intro s p ak sub v b t hs hak7 hformat hb h
  obtain ⟨hfin, hvalue⟩ := written_value_words h
  obtain ⟨hpwe1, hpwe2⟩ := Prod.mk.inj (Except.ok.inj (hvalue.symm.trans (convertValue_of_float hfin hformat hb)))
  have hak := written_ak_ne_seven hs hak7 h
  have hlt := b.isLt
  have hhigh : t.pwe1.toNat = b.toNat / 65536 := by rw [hpwe1, BitVec.toNat_ofNat]; omega
  have hlow : t.pwe2.toNat = b.toNat % 65536 := by rw [hpwe2, BitVec.toNat_ofNat]; omega
  split_ifs with hsmall
  · have hzero : t.pwe1 = 0#16 := BitVec.eq_of_toNat_eq (by rw [hhigh]; exact Nat.div_eq_of_lt hsmall)
    obtain ⟨r, hr, hpayload⟩ := wordPathReportsPwe2 s t.pke t.ind t.pwe1 t.pwe2 hak hzero
    rw [hpwe2, Nat.mod_eq_of_lt hsmall] at hpayload
    exact ⟨r, hr, hpayload⟩
  · have hne : t.pwe1 ≠ 0#16 := fun hzero => by
      rw [hzero, BitVec.toNat_ofNat] at hhigh
      omega
    obtain ⟨r, b', hr, hpayload, hsum⟩ := floatPathKeepsThePattern s t.pke t.ind t.pwe1 t.pwe2 hak hne
    have hb' : b' = b := BitVec.eq_of_toNat_eq (by omega)
    exact ⟨r, hr, hb' ▸ hpayload⟩

/-- Settles O54: PWE1 is the integer part modulo 2^16, and DEC chooses by it. -/
theorem fixedPointWriteReadsBackAsFloatOrWord : Obligations.FixedPointWriteReadsBackAsFloatOrWord := by
  intro s ak sub v t hs hak7 h
  obtain ⟨hfin, hvalue⟩ := written_value_words h
  obtain ⟨hpwe1, hpwe2⟩ :=
    Prod.mk.inj (Except.ok.inj (hvalue.symm.trans (convertValue_of_fixpt hfin (formatSelect_845 v))))
  have hak := written_ak_ne_seven hs hak7 h
  have hhigh : (t.pwe1.toNat : Int) = v.trunc % 65536 := by rw [hpwe1, toNat_ofInt_emod]
  have hlow : (t.pwe2.toNat : Int) = fixptTenths Config.fixptTie v % 65536 := by rw [hpwe2, toNat_ofInt_emod]
  have hzero : t.pwe1 = 0#16 ↔ v.trunc % 65536 = 0 := by
    rw [← BitVec.toNat_inj, BitVec.toNat_ofNat]
    omega
  by_cases hpart : v.trunc % 65536 = 0
  · obtain ⟨r, hr, hpayload⟩ := wordPathReportsPwe2 s t.pke t.ind t.pwe1 t.pwe2 hak (hzero.2 hpart)
    exact ⟨r, hr, fun _ => hpayload.trans (congrArg Payload.word hpwe2), fun hne => absurd hpart hne⟩
  · obtain ⟨r, b, hr, hpayload, hsum⟩ :=
      floatPathKeepsThePattern s t.pke t.ind t.pwe1 t.pwe2 hak (mt hzero.1 hpart)
    exact ⟨r, hr, fun heq => absurd heq hpart, fun _ => ⟨b, hpayload, by omega⟩⟩

end Sys2Proof.Machine
end

section
/-! PROOFS. The rounding division and what rests on it in binary64: the truncation, the fraction and the tenths of a
fixed-point value (00_scope.md R9, R10; 40_encoder.md R106, R109, R110). -/

namespace Sys2Proof

/-! ## The rounding division -/

/-- Down when the remainder is below half, up when it is above, and on a tie as the rule says. -/
theorem roundDiv_cases (tie : TieRule) (n d : Nat) :
    (roundDiv tie n d = n / d ∧ 2 * (n % d) ≤ d ∧ (2 * (n % d) = d → tie = .halfEven ∧ n / d % 2 = 0)) ∨
    (roundDiv tie n d = n / d + 1 ∧ d ≤ 2 * (n % d) ∧
      (2 * (n % d) = d → tie = .halfEven → (n / d + 1) % 2 = 0)) := by
  unfold roundDiv
  split_ifs with hbelow habove
  · exact .inl ⟨rfl, by omega, fun htie => by omega⟩
  · exact .inr ⟨rfl, by omega, fun htie => by omega⟩
  · cases tie with
    | halfAway => exact .inr ⟨rfl, by omega, fun _ => nofun⟩
    | halfEven =>
      obtain heven | hodd : n / d % 2 = 0 ∨ n / d % 2 = 1 := by omega
      · exact .inl ⟨by simp only [heven, add_zero], by omega, fun _ => ⟨rfl, heven⟩⟩
      · exact .inr ⟨by simp only [hodd], by omega, fun _ _ => by omega⟩

/-- Settles O36: the quotient and the remainder make up the dividend. -/
theorem roundDivIsNearestWithTies : Obligations.RoundDivIsNearestWithTies := by
  intro tie n d hd
  have hn : n / d * d + n % d = n := by rw [mul_comm]; exact Nat.div_add_mod n d
  have hlt : n % d < d := Nat.mod_lt n hd
  obtain ⟨hr, hle, htie⟩ | ⟨hr, hle, htie⟩ := roundDiv_cases tie n d
  · rw [hr]
    simp only [add_mul, one_mul, mul_assoc]
    exact ⟨by omega, by omega, fun heq _ => (htie heq).2, fun heq haway => by cases haway.symm.trans (htie heq).1⟩
  · rw [hr]
    simp only [add_mul, one_mul, mul_assoc]
    exact ⟨by omega, by omega, htie, fun heq _ => by omega⟩

theorem le_roundDiv_of_mul_le {tie : TieRule} {n d k : Nat} (hd : 0 < d) (h : k * d ≤ n) : k ≤ roundDiv tie n d :=
  ((Nat.le_div_iff_mul_le hd).2 h).trans (roundDiv_ge_div tie n d)

theorem roundDiv_le_of_le_mul {tie : TieRule} {n d k : Nat} (hd : 0 < d) (h : n ≤ k * d) : roundDiv tie n d ≤ k := by
  obtain hlt | heq := Nat.lt_or_eq_of_le h
  · exact (roundDiv_le_div_succ tie n d).trans ((Nat.div_lt_iff_lt_mul hd).2 hlt)
  · rw [heq, roundDiv_mul_right tie k d hd]

/-- A common factor of the dividend and the divisor does not matter. -/
theorem roundDiv_mul_mul_left (tie : TieRule) (n d : Nat) {k : Nat} (hk : 0 < k) :
    roundDiv tie (k * n) (k * d) = roundDiv tie n d := by
  have hscale : 2 * (k * (n % d)) = k * (2 * (n % d)) := by ring
  simp only [roundDiv, Nat.mul_div_mul_left n d hk, Nat.mul_mod_mul_left, hscale, Nat.mul_lt_mul_left hk]

/-- No multiple of the divisor is nearer to the dividend than the rounded one, and one as near leaves the even one. -/
theorem roundDiv_halfEven_nearest (n m : Nat) {d : Nat} (hd : 0 < d) :
    (((roundDiv .halfEven n d * d : Nat) : Int) - n).natAbs ≤ (((m * d : Nat) : Int) - n).natAbs ∧
    (m ≠ roundDiv .halfEven n d →
      (((roundDiv .halfEven n d * d : Nat) : Int) - n).natAbs = (((m * d : Nat) : Int) - n).natAbs →
      roundDiv .halfEven n d % 2 = 0) := by
  have hn : n / d * d + n % d = n := by rw [mul_comm]; exact Nat.div_add_mod n d
  have hlt : n % d < d := Nat.mod_lt n hd
  have hside : m * d ≤ n / d * d ∧ (m ≠ n / d → m * d + d ≤ n / d * d) ∨
      n / d * d + d ≤ m * d ∧ (m ≠ n / d + 1 → n / d * d + 2 * d ≤ m * d) := by
    obtain hm | hm := Nat.lt_or_ge (n / d) m
    · refine .inr ⟨?_, fun hne => ?_⟩
      · simpa only [Nat.succ_mul] using Nat.mul_le_mul_right d hm
      · simpa only [add_mul] using Nat.mul_le_mul_right d (by omega : n / d + 2 ≤ m)
    · refine .inl ⟨Nat.mul_le_mul_right d hm, fun hne => ?_⟩
      simpa only [add_mul, one_mul] using Nat.mul_le_mul_right d (by omega : m + 1 ≤ n / d)
  obtain ⟨hr, hle, htie⟩ | ⟨hr, hle, htie⟩ := roundDiv_cases .halfEven n d
  · rw [hr]
    exact ⟨by omega, fun hne heq => (htie (by omega)).2⟩
  · rw [hr, add_mul, one_mul]
    exact ⟨by omega, fun hne heq => htie (by omega) rfl⟩

/-! ## The binade of a magnitude -/

theorem lt_mul_two_pow_binade_succ (n : Nat) {least : Nat} (hl : 0 < least) :
    n < least * 2 ^ (binade least n + 1) := by
  rw [mul_comm]
  exact (Nat.div_lt_iff_lt_mul hl).1 Nat.lt_log2_self

theorem mul_two_pow_binade_le {least n : Nat} (hl : 0 < least) (h : binade least n ≠ 0) :
    least * 2 ^ binade least n ≤ n := by
  have hquot : n / least ≠ 0 := fun hzero => h (by rw [binade, hzero, Nat.log2_zero])
  rw [mul_comm]
  exact (Nat.le_div_iff_mul_le hl).1 (Nat.log2_self_le hquot)

theorem binade_le_of_lt {least n j : Nat} (hl : 0 < least) (h : n < least * 2 ^ (j + 1)) : binade least n ≤ j := by
  by_cases hzero : binade least n = 0
  · omega
  · have hpow := Nat.lt_of_mul_lt_mul_left ((mul_two_pow_binade_le hl hzero).trans_lt h)
    exact Nat.lt_succ_iff.1 ((Nat.pow_lt_pow_iff_right one_lt_two).1 hpow)

theorem binade_mul_mul_left (least n : Nat) {k : Nat} (hk : 0 < k) : binade (k * least) (k * n) = binade least n := by
  rw [binade, binade, Nat.mul_div_mul_left n least hk]

/-! ## The truncation and the fraction -/

theorem F64.trunc_natAbs (v : F64) : v.trunc.natAbs = v.mag / F64.one := v.signed_natAbs _

theorem F64.signed_nonpos {v : F64} (h : v.negative = true) (n : Nat) : v.signed n ≤ 0 := by
  rw [F64.signed, if_pos h]
  omega

theorem F64.signed_nonneg {v : F64} (h : v.negative = false) (n : Nat) : 0 ≤ v.signed n := by
  rw [F64.signed, if_neg (by simp [h])]
  omega

/-- Settles O31: the magnitude of the truncation is a quotient. -/
theorem truncDropsTheFraction : Obligations.TruncDropsTheFraction := by
  intro v
  rw [F64.trunc_natAbs]
  exact ⟨Nat.div_mul_le_self _ _, Nat.lt_mul_of_div_lt (Nat.lt_succ_self _) F64.one_pos,
    fun h => F64.signed_nonpos h _, fun h => F64.signed_nonneg h _⟩

theorem F64.hasFraction_eq_false_iff {v : F64} : v.hasFraction = false ↔ F64.one ∣ v.mag := by
  rw [F64.hasFraction, bne_eq_false_iff_eq, F64.fracMag, Nat.dvd_iff_mod_eq_zero]

theorem F64.two_pow_dvd_one {j : Nat} (h : j ≤ 1074) : 2 ^ j ∣ F64.one := by
  rw [F64.one_eq]
  exact pow_dvd_pow 2 h

theorem F64.one_dvd_two_pow {j : Nat} (h : 1074 ≤ j) : F64.one ∣ 2 ^ j := by
  rw [F64.one_eq]
  exact pow_dvd_pow 2 h

/-- From 2^52 on the last place of a binary64 number is a whole number (40_encoder.md R106). -/
theorem F64.one_dvd_mag_of_le {v : F64} (h : 2 ^ 52 * F64.one ≤ v.mag) : F64.one ∣ v.mag := by
  obtain ⟨m, hm, hmag⟩ := v.mag_eq_scaled
  have hexp : 2 ^ (52 + 1074) < 2 ^ (53 + (v.expField - 1)) := by
    rw [pow_add, pow_add, ← F64.one_eq]
    exact (hmag ▸ h).trans_lt (Nat.mul_lt_mul_of_pos_right hm (by positivity))
  have hge : 1074 ≤ v.expField - 1 := by
    rw [pow_lt_pow_iff_right₀ one_lt_two] at hexp
    omega
  rw [hmag]
  exact (F64.one_dvd_two_pow hge).mul_left m

/-- Settles O32: a whole number is a multiple of 1.0, and from 2^52 on there are no others. -/
theorem fractionExactlyOfNonIntegers : Obligations.FractionExactlyOfNonIntegers := by
  refine fun v => ⟨F64.hasFraction_eq_false_iff.trans dvd_iff_exists_eq_mul_left, fun _ h => ?_⟩
  exact F64.hasFraction_eq_false_iff.2 (F64.one_dvd_mag_of_le h)

/-- The fraction has at most 53 bits above some place, as the number itself has. -/
theorem F64.fracMag_eq_scaled (v : F64) : ∃ j, 2 ^ j ∣ v.fracMag ∧ v.fracMag < 2 ^ 53 * 2 ^ j := by
  obtain ⟨m, hm, hmag⟩ := v.mag_eq_scaled
  have hdvd : 2 ^ (v.expField - 1) ∣ v.mag := ⟨m, by rw [hmag, mul_comm]⟩
  obtain hle | hge := Nat.le_total (v.expField - 1) 1074
  · refine ⟨v.expField - 1, (Nat.dvd_mod_iff (F64.two_pow_dvd_one hle)).2 hdvd, ?_⟩
    calc v.fracMag ≤ v.mag := Nat.mod_le _ _
      _ = m * 2 ^ (v.expField - 1) := hmag
      _ < 2 ^ 53 * 2 ^ (v.expField - 1) := Nat.mul_lt_mul_of_pos_right hm (by positivity)
  · have hzero : v.fracMag = 0 := Nat.mod_eq_zero_of_dvd ((F64.one_dvd_two_pow hge).trans hdvd)
    exact ⟨0, by simp [hzero]⟩

/-! ## The multiplication -/

/-- A magnitude rounded to 53 bits, in its own unit. -/
def roundTo53 (x : Nat) : Nat := roundDiv .halfEven x (2 ^ binade (2 ^ 52) x) * 2 ^ binade (2 ^ 52) x

/-- Multiplying by a whole number rounds the exact multiple. -/
theorem F64.mulMag_mul_one (a c : Nat) : F64.mulMag a (c * F64.one) = roundTo53 (a * c) := by
  have hproduct : a * (c * F64.one) = F64.one * (a * c) := by ring
  rw [F64.mulMag, hproduct, binade_mul_mul_left _ _ F64.one_pos, roundDiv_mul_mul_left _ _ _ F64.one_pos, roundTo53]

/-- A number of 53 bits is not rounded. -/
theorem roundTo53_of_dvd {x j : Nat} (hdvd : 2 ^ j ∣ x) (hlt : x < 2 ^ 53 * 2 ^ j) : roundTo53 x = x := by
  have hlt' : x < 2 ^ 52 * 2 ^ (j + 1) := by rw [pow_succ 2 j]; omega
  have hbinade : 2 ^ binade (2 ^ 52) x ∣ x := (pow_dvd_pow 2 (binade_le_of_lt (by positivity) hlt')).trans hdvd
  obtain ⟨y, hy⟩ := hbinade
  have hround := roundDiv_mul_right .halfEven y (2 ^ binade (2 ^ 52) x) (by positivity)
  rw [mul_comm, ← hy] at hround
  rw [roundTo53, hround, mul_comm, ← hy]

/-- Rounding stays on the side of every number it could give. -/
theorem le_roundTo53 {x y : Nat} (hdvd : 2 ^ binade (2 ^ 52) x ∣ y) (h : y ≤ x) : y ≤ roundTo53 x := by
  obtain ⟨k, rfl⟩ := hdvd
  rw [mul_comm] at h ⊢
  exact Nat.mul_le_mul_right _ (le_roundDiv_of_mul_le (by positivity) h)

theorem roundTo53_le {x y : Nat} (hdvd : 2 ^ binade (2 ^ 52) x ∣ y) (h : x ≤ y) : roundTo53 x ≤ y := by
  obtain ⟨k, rfl⟩ := hdvd
  rw [mul_comm] at h ⊢
  exact Nat.mul_le_mul_right _ (roundDiv_le_of_le_mul (by positivity) h)

/-- Settles O37: the fraction has 53 bits, so multiplying it by 1.0 rounds nothing. -/
theorem fractionIsExact : Obligations.FractionIsExact := by
  intro v _
  obtain ⟨j, hdvd, hlt⟩ := v.fracMag_eq_scaled
  calc F64.mulMag v.fracMag F64.one = F64.mulMag v.fracMag (1 * F64.one) := by rw [one_mul]
    _ = roundTo53 v.fracMag := by rw [F64.mulMag_mul_one, mul_one]
    _ = v.fracMag := roundTo53_of_dvd hdvd hlt

/-! ## The tenths -/

/-- One half, in the unit of magnitudes, is a number that rounding to 53 bits can give anywhere below 16. -/
theorem F64.exists_half_one : ∃ half, F64.one = 2 * half ∧ 2 ^ 1025 ∣ half :=
  ⟨2 ^ 1073, by rw [F64.one_eq, ← pow_succ'], pow_dvd_pow 2 (by omega)⟩

theorem binade_tenfold_fracMag_le (v : F64) : binade (2 ^ 52) (v.fracMag * 10) ≤ 1025 := by
  have hlt := v.fracMag_lt
  refine binade_le_of_lt (by positivity) ?_
  calc v.fracMag * 10 < 2 ^ 4 * F64.one := by omega
    _ = 2 ^ 52 * 2 ^ (1025 + 1) := by rw [F64.one_eq, ← pow_add, ← pow_add]

/-- Ten times the fraction, rounded: at most 10.0, and at least 9.5 when the fraction is at least 0.95. -/
theorem tenfold_fracMag_bounds (v : F64) : F64.mulMag v.fracMag (10 * F64.one) ≤ 10 * F64.one ∧
    (19 * F64.one ≤ 20 * v.fracMag → 19 * F64.one ≤ 2 * F64.mulMag v.fracMag (10 * F64.one)) := by
  obtain ⟨half, hone, hhalf⟩ := F64.exists_half_one
  have hlt := v.fracMag_lt
  have hdvd : ∀ k, 2 ^ binade (2 ^ 52) (v.fracMag * 10) ∣ k * half := fun k =>
    ((pow_dvd_pow 2 (binade_tenfold_fracMag_le v)).trans hhalf).mul_left k
  have hupper := roundTo53_le (x := v.fracMag * 10) (hdvd 20) (by omega)
  rw [F64.mulMag_mul_one]
  refine ⟨by omega, fun h => ?_⟩
  have hlower := le_roundTo53 (x := v.fracMag * 10) (hdvd 19) (by omega)
  omega

/-- From 9.5 on the nearest integer up to 10 is 10, by either rule on the tie. -/
theorem roundDiv_eq_ten {tie : TieRule} {n d : Nat} (hd : 0 < d) (hle : n ≤ 10 * d) (hge : 19 * d ≤ 2 * n) :
    roundDiv tie n d = 10 := by
  have hten : roundDiv tie n d ≤ 10 := roundDiv_le_of_le_mul hd hle
  have hnine : 9 ≤ n / d := (Nat.le_div_iff_mul_le hd).2 (by omega)
  have hn : d * (n / d) + n % d = n := Nat.div_add_mod n d
  obtain ⟨hr, hrem, htie⟩ | ⟨hr, -, -⟩ := roundDiv_cases tie n d
  · by_contra hne
    have hquot : n / d = 9 := by omega
    rw [hquot] at hn htie
    have heven := (htie (by omega)).2
    omega
  · omega

/-- Settles O38: the rounded tenfold fraction lies in [0, 10.0], and in [9.5, 10.0] from 0.95 on. -/
theorem fixedPointTenthsAreBounded : Obligations.FixedPointTenthsAreBounded := by
  intro tie v _
  obtain ⟨hle, hge⟩ := tenfold_fracMag_bounds v
  have hnatAbs : (Machine.fixptTenths tie v).natAbs =
      roundDiv tie (F64.mulMag v.fracMag (10 * F64.one)) F64.one := v.signed_natAbs _
  rw [hnatAbs]
  exact ⟨roundDiv_le_of_le_mul F64.one_pos hle, fun h => F64.signed_nonpos h _, fun h => F64.signed_nonneg h _,
    fun h => roundDiv_eq_ten F64.one_pos hle (hge h)⟩

end Sys2Proof
end

section
/-! PROOFS. binary32: the finite numbers in order, numbered by their exponent and fraction fields; the rounding gives the
nearest of them, ties to even, and the three statements about it follow (00_scope.md R10, 40_encoder.md R108). -/

namespace Sys2Proof

/-! ## The magnitudes of binary32, by the number their fields make -/

/-- The magnitude, in subnormal units, of the exponent and fraction fields read as one number. The exponent is not
bounded, so that the numbers go on where binary32 overflows. -/
def F32.unitsOf (k : Nat) : Nat :=
  if k / 2 ^ 23 = 0 then k % 2 ^ 23 else (2 ^ 23 + k % 2 ^ 23) * 2 ^ (k / 2 ^ 23 - 1)

/-- The fields of a pattern as one number: the pattern without its sign. -/
theorem F32.mag_eq_unitsOf (b : F32) : b.mag = F32.unitsOf (b.toNat % 2 ^ 31) * F32.unit := by
  have hlt := b.isLt
  have hexp : b.expField = b.toNat % 2 ^ 31 / 2 ^ 23 := by
    rw [F32.expField, BitVec.extractLsb'_toNat, Nat.shiftRight_eq_div_pow]
    omega
  have hfrac : b.fracField = b.toNat % 2 ^ 31 % 2 ^ 23 := by
    rw [F32.fracField, BitVec.extractLsb'_toNat, Nat.shiftRight_zero]
    omega
  rw [F32.mag, F32.unitsOf, hexp, hfrac]

theorem F32.isFinite_iff (b : F32) : b.isFinite = true ↔ b.toNat % 2 ^ 31 < 0x7F800000 := by
  have hlt := b.isLt
  have hexp : b.expField = b.toNat / 2 ^ 23 % 2 ^ 8 := by
    rw [F32.expField, BitVec.extractLsb'_toNat, Nat.shiftRight_eq_div_pow]
  rw [F32.isFinite, bne_iff_ne, hexp]
  omega

theorem F32.negative_iff (b : F32) : b.negative = true ↔ 2 ^ 31 ≤ b.toNat := by
  have hlt := b.isLt
  rw [F32.negative, ← BitVec.testBit_toNat, Nat.testBit_eq_decide_div_mod_eq, decide_eq_true_iff]
  omega

/-- A mantissa at a binade; 2^24 is the carry into the next binade. -/
theorem F32.unitsOf_eq {e m : Nat} (hm : m ≤ 2 ^ 24) (he : e = 0 ∨ 2 ^ 23 ≤ m) :
    F32.unitsOf (2 ^ 23 * e + m) = m * 2 ^ e := by
  have hcases : (e = 0 ∧ m < 2 ^ 23) ∨ (2 ^ 23 ≤ m ∧ m < 2 ^ 24) ∨ m = 2 ^ 24 := by omega
  unfold F32.unitsOf
  obtain ⟨rfl, hsub⟩ | ⟨hlo, hhi⟩ | rfl := hcases
  · rw [if_pos (by omega), pow_zero]
    omega
  · have hdiv : (2 ^ 23 * e + m) / 2 ^ 23 = e + 1 := by omega
    have hmod : 2 ^ 23 + (2 ^ 23 * e + m) % 2 ^ 23 = m := by omega
    rw [hdiv, hmod, if_neg (by omega), Nat.add_sub_cancel]
  · have hdiv : (2 ^ 23 * e + 2 ^ 24) / 2 ^ 23 = e + 2 := by omega
    have hmod : (2 ^ 23 * e + 2 ^ 24) % 2 ^ 23 = 0 := by omega
    rw [hdiv, hmod, if_neg (by omega), Nat.add_zero, show e + 2 - 1 = 1 + e by omega, pow_add, ← mul_assoc]
    norm_num

/-- Every number of fields is a mantissa of 24 bits at a binade. -/
theorem F32.exists_mantissa (k : Nat) : ∃ e m, k = 2 ^ 23 * e + m ∧ m < 2 ^ 24 ∧ (e = 0 ∨ 2 ^ 23 ≤ m) := by
  by_cases hk : k < 2 ^ 24
  · exact ⟨0, k, by omega, hk, .inl rfl⟩
  · exact ⟨k / 2 ^ 23 - 1, 2 ^ 23 + k % 2 ^ 23, by omega, by omega, .inr (by omega)⟩

theorem F32.unitsOf_strictMono : StrictMono F32.unitsOf := by
  refine strictMono_nat_of_lt_succ fun k => ?_
  obtain ⟨e, m, rfl, hm, he⟩ := F32.exists_mantissa k
  rw [F32.unitsOf_eq hm.le he, add_assoc, F32.unitsOf_eq hm (he.imp_right (by omega))]
  exact Nat.mul_lt_mul_of_pos_right (Nat.lt_succ_self m) (by positivity)

/-- From binade `e` on, all magnitudes are multiples of that binade's last place. -/
theorem F32.two_pow_dvd_unitsOf {e k : Nat} (h : e = 0 ∨ 2 ^ 23 * (e + 1) ≤ k) : 2 ^ e ∣ F32.unitsOf k := by
  obtain ⟨e', m, rfl, hm, he'⟩ := F32.exists_mantissa k
  rw [F32.unitsOf_eq hm.le he']
  exact (pow_dvd_pow 2 (by omega)).mul_left m

/-! ## The rounding -/

/-- The binade a magnitude is rounded in. -/
def F32.roundBinade (n : Nat) : Nat := binade (F32.unit * 2 ^ 23) n

/-- The mantissa a magnitude is rounded to. -/
def F32.roundMantissa (n : Nat) : Nat := roundDiv .halfEven n (F32.unit * 2 ^ F32.roundBinade n)

theorem F32.roundMag_eq (n : Nat) : F32.roundMag n = 2 ^ 23 * F32.roundBinade n + F32.roundMantissa n := rfl

theorem F32.lastPlace_pos (n : Nat) : 0 < F32.unit * 2 ^ F32.roundBinade n :=
  Nat.mul_pos F32.unit_pos (by positivity)

/-- Above the first binade a magnitude is at least the least of its binade. -/
theorem F32.least_mul_le {n : Nat} (h : F32.roundBinade n ≠ 0) :
    2 ^ 23 * (F32.unit * 2 ^ F32.roundBinade n) ≤ n := by
  have hle : F32.unit * 2 ^ 23 * 2 ^ F32.roundBinade n ≤ n :=
    mul_two_pow_binade_le (Nat.mul_pos F32.unit_pos (by positivity)) h
  calc 2 ^ 23 * (F32.unit * 2 ^ F32.roundBinade n) = F32.unit * 2 ^ 23 * 2 ^ F32.roundBinade n := by ring
    _ ≤ n := hle

theorem F32.roundMantissa_le (n : Nat) : F32.roundMantissa n ≤ 2 ^ 24 := by
  refine roundDiv_le_of_le_mul (F32.lastPlace_pos n) ?_
  have hlt : n < F32.unit * 2 ^ 23 * 2 ^ (F32.roundBinade n + 1) :=
    lt_mul_two_pow_binade_succ n (Nat.mul_pos F32.unit_pos (by positivity))
  calc n ≤ F32.unit * 2 ^ 23 * 2 ^ (F32.roundBinade n + 1) := hlt.le
    _ = 2 ^ 24 * (F32.unit * 2 ^ F32.roundBinade n) := by ring

theorem F32.roundMantissa_ge (n : Nat) : F32.roundBinade n = 0 ∨ 2 ^ 23 ≤ F32.roundMantissa n :=
  or_iff_not_imp_left.2 fun h => le_roundDiv_of_mul_le (F32.lastPlace_pos n) (F32.least_mul_le h)

/-- The fields the rounding gives stand for the mantissa at its binade, the carry included. -/
theorem F32.unitsOf_roundMag (n : Nat) :
    F32.unitsOf (F32.roundMag n) * F32.unit = F32.roundMantissa n * (F32.unit * 2 ^ F32.roundBinade n) := by
  rw [F32.roundMag_eq, F32.unitsOf_eq (F32.roundMantissa_le n) (F32.roundMantissa_ge n)]
  ring

/-- The last bit of the fields is the mantissa's. -/
theorem F32.roundMag_mod_two (n : Nat) : F32.roundMag n % 2 = F32.roundMantissa n % 2 := by
  rw [F32.roundMag_eq]
  omega

/-- How far the number with fields `k` is from a magnitude. -/
def F32.distance (k n : Nat) : Nat := (((F32.unitsOf k * F32.unit : Nat) : Int) - n).natAbs

/-- A magnitude below the binade is farther away than the binade's least number, so than the rounded one. -/
theorem F32.distance_lt_of_below {n k : Nat} (he : F32.roundBinade n ≠ 0) (hk : k < 2 ^ 23 * (F32.roundBinade n + 1)) :
    F32.distance (F32.roundMag n) n < F32.distance k n := by
  have hleast := F32.least_mul_le he
  have hnear := (roundDiv_halfEven_nearest n (2 ^ 23) (F32.lastPlace_pos n)).1
  have hunits : F32.unitsOf k < 2 ^ 23 * 2 ^ F32.roundBinade n := by
    rw [← F32.unitsOf_eq (by omega) (.inr le_rfl)]
    exact F32.unitsOf_strictMono (by omega)
  have hbelow : F32.unitsOf k * F32.unit < 2 ^ 23 * (F32.unit * 2 ^ F32.roundBinade n) := by
    calc F32.unitsOf k * F32.unit < 2 ^ 23 * 2 ^ F32.roundBinade n * F32.unit :=
          Nat.mul_lt_mul_of_pos_right hunits F32.unit_pos
      _ = 2 ^ 23 * (F32.unit * 2 ^ F32.roundBinade n) := by ring
  rw [F32.distance, F32.distance, F32.unitsOf_roundMag]
  change (((F32.roundMantissa n * _ : Nat) : Int) - n).natAbs ≤ _ at hnear
  omega

/-- The rounded fields are the nearest, and where others are equally near, even. -/
theorem F32.roundMag_nearest (n k : Nat) : F32.distance (F32.roundMag n) n ≤ F32.distance k n ∧
    (k ≠ F32.roundMag n → F32.distance (F32.roundMag n) n = F32.distance k n → F32.roundMag n % 2 = 0) := by
  by_cases hk : F32.roundBinade n = 0 ∨ 2 ^ 23 * (F32.roundBinade n + 1) ≤ k
  · obtain ⟨m, hm⟩ := F32.two_pow_dvd_unitsOf hk
    have hmul : F32.unitsOf k * F32.unit = m * (F32.unit * 2 ^ F32.roundBinade n) := by rw [hm]; ring
    obtain ⟨hnear, htie⟩ := roundDiv_halfEven_nearest n m (F32.lastPlace_pos n)
    rw [F32.roundMag_mod_two, F32.distance, F32.distance, F32.unitsOf_roundMag, hmul]
    refine ⟨hnear, fun hne => htie fun heq => hne (F32.unitsOf_strictMono.injective ?_)⟩
    refine Nat.eq_of_mul_eq_mul_right F32.unit_pos ?_
    rw [hmul, F32.unitsOf_roundMag, heq, F32.roundMantissa]
  · rw [not_or, not_le] at hk
    have hlt := F32.distance_lt_of_below hk.1 hk.2
    exact ⟨hlt.le, fun _ heq => absurd heq hlt.ne⟩

/-! ## The pattern -/

theorem F64.toF32_of_lt {v : F64} (h : F32.roundMag v.mag < 0x7F800000) :
    v.toF32 = some (BitVec.ofNat 32 (F32.roundMag v.mag + if v.negative then 2 ^ 31 else 0)) := by
  rw [F64.toF32, if_neg (by omega)]

/-- The pattern of a value that does not overflow: the rounded fields below the sign. -/
theorem F64.toF32_eq_some {v : F64} {b : F32} (h : v.toF32 = some b) :
    F32.roundMag v.mag < 0x7F800000 ∧ b.toNat % 2 ^ 31 = F32.roundMag v.mag ∧ b.negative = v.negative := by
  have hlt : F32.roundMag v.mag < 0x7F800000 := by
    by_contra hge
    rw [(F64.toF32_eq_none_iff v).2 (by omega)] at h
    cases h
  obtain rfl := Option.some.inj ((F64.toF32_of_lt hlt).symm.trans h)
  refine ⟨hlt, ?_, ?_⟩
  · rw [BitVec.toNat_ofNat]
    split <;> omega
  · rw [Bool.eq_iff_iff, F32.negative_iff, BitVec.toNat_ofNat]
    cases v.negative <;> simp <;> omega

/-- A binary32 pattern is its fields and its sign. -/
theorem F32.eq_of_fields_and_sign {b b' : F32} (hfields : b.toNat % 2 ^ 31 = b'.toNat % 2 ^ 31)
    (hsign : b.negative = b'.negative) : b = b' := by
  have hlt := b.isLt
  have hlt' := b'.isLt
  rw [Bool.eq_iff_iff, F32.negative_iff, F32.negative_iff] at hsign
  apply BitVec.eq_of_toNat_eq
  omega

/-! ## The overflow threshold -/

/-- The threshold is halfway between the largest finite number and the one that would follow it. -/
theorem two_mul_threshold : 2 * ((2 ^ 128 - 2 ^ 103) * F64.one) =
    F32.unitsOf 0x7F7FFFFF * F32.unit + F32.unitsOf 0x7F800000 * F32.unit := by
  have hlargest : F32.unitsOf (2 ^ 23 * 253 + (2 ^ 24 - 1)) = (2 ^ 24 - 1) * 2 ^ 253 :=
    F32.unitsOf_eq (by omega) (.inr (by omega))
  have hnext : F32.unitsOf (2 ^ 23 * 253 + 2 ^ 24) = 2 ^ 24 * 2 ^ 253 := F32.unitsOf_eq le_rfl (.inr (by omega))
  have hone : F64.one = 2 ^ 149 * F32.unit := by rw [F64.one_eq, F32.unit_eq, ← pow_add]
  have hsum : 2 * (2 ^ 128 - 2 ^ 103) * 2 ^ 149 = (2 ^ 24 - 1) * 2 ^ 253 + 2 ^ 24 * 2 ^ 253 := by norm_num
  rw [show 0x7F7FFFFF = 2 ^ 23 * 253 + (2 ^ 24 - 1) by norm_num, hlargest,
    show 0x7F800000 = 2 ^ 23 * 253 + 2 ^ 24 by norm_num, hnext, hone, ← add_mul, ← mul_assoc, ← mul_assoc, hsum]

/-- The rounding reaches the first number beyond binary32 exactly from the threshold on: the tie goes up, since the
largest finite number is odd. -/
theorem F32.roundMag_overflow_iff (n : Nat) :
    0x7F800000 ≤ F32.roundMag n ↔ (2 ^ 128 - 2 ^ 103) * F64.one ≤ n := by
  have hthreshold := two_mul_threshold
  have hstep : F32.unitsOf 0x7F7FFFFF * F32.unit < F32.unitsOf 0x7F800000 * F32.unit :=
    Nat.mul_lt_mul_of_pos_right (F32.unitsOf_strictMono (by omega)) F32.unit_pos
  constructor
  · intro hover
    have hnear := (F32.roundMag_nearest n 0x7F7FFFFF).1
    have hmono : F32.unitsOf 0x7F800000 * F32.unit ≤ F32.unitsOf (F32.roundMag n) * F32.unit :=
      Nat.mul_le_mul_right _ (F32.unitsOf_strictMono.monotone hover)
    unfold F32.distance at hnear
    omega
  · intro hge
    by_contra hlt
    have hmono : F32.unitsOf (F32.roundMag n) * F32.unit ≤ F32.unitsOf 0x7F7FFFFF * F32.unit :=
      Nat.mul_le_mul_right _ (F32.unitsOf_strictMono.monotone (by omega))
    obtain ⟨hnear, htie⟩ := F32.roundMag_nearest n 0x7F800000
    unfold F32.distance at hnear htie
    have heven := htie (by omega) (by omega)
    have hlargest : F32.unitsOf (F32.roundMag n) = F32.unitsOf 0x7F7FFFFF :=
      Nat.eq_of_mul_eq_mul_right F32.unit_pos (by omega)
    have hodd := F32.unitsOf_strictMono.injective hlargest
    omega

/-! ## The statements -/

/-- Settles O33: OVERFLOW is that the rounded fields pass the largest finite ones. -/
theorem binary32OverflowThreshold : Obligations.Binary32OverflowThreshold := fun v _ =>
  (F64.toF32_eq_none_iff v).trans (F32.roundMag_overflow_iff v.mag)

theorem F32.distance_fields (b : F32) (n : Nat) :
    ((b.mag : Int) - n).natAbs = F32.distance (b.toNat % 2 ^ 31) n := by
  rw [F32.mag_eq_unitsOf, F32.distance]

/-- Settles O34, by `F32.roundMag_nearest`. -/
theorem binary32RoundingIsNearestEven : Obligations.Binary32RoundingIsNearestEven := by
  intro v b _ hb
  obtain ⟨hlt, hfields, hsign⟩ := F64.toF32_eq_some hb
  refine ⟨(F32.isFinite_iff b).2 (hfields.trans_lt hlt), hsign, fun m _ => ?_⟩
  obtain ⟨hnear, htie⟩ := F32.roundMag_nearest v.mag (m.toNat % 2 ^ 31)
  rw [F32.distance_fields, F32.distance_fields, hfields]
  refine ⟨hnear, fun hne heq => ?_⟩
  have hother : m.toNat % 2 ^ 31 ≠ F32.roundMag v.mag := fun hsame => hne (by
    rw [F32.mag_eq_unitsOf, F32.mag_eq_unitsOf, hsame, hfields])
  have heven := htie hother heq
  rw [← BitVec.testBit_toNat, Nat.testBit_zero, decide_eq_false_iff_not]
  omega

/-- Settles O35: the number itself is at distance 0, so the rounding gives it. -/
theorem binary32ValuesConvertExactly : Obligations.Binary32ValuesConvertExactly := by
  intro v b hfinite hsign hmag
  have hzero : F32.distance (b.toNat % 2 ^ 31) v.mag = 0 := by
    rw [← F32.distance_fields, hmag, sub_self, Int.natAbs_zero]
  have hrounded : F32.distance (F32.roundMag v.mag) v.mag = 0 :=
    Nat.le_zero.1 (hzero ▸ (F32.roundMag_nearest v.mag (b.toNat % 2 ^ 31)).1)
  have hsame : F32.roundMag v.mag = b.toNat % 2 ^ 31 := by
    refine F32.unitsOf_strictMono.injective (Nat.eq_of_mul_eq_mul_right F32.unit_pos ?_)
    unfold F32.distance at hzero hrounded
    omega
  have hlt : F32.roundMag v.mag < 0x7F800000 := hsame ▸ (F32.isFinite_iff b).1 hfinite
  have htoF32 := F64.toF32_of_lt hlt
  obtain ⟨-, hfields, hneg⟩ := F64.toF32_eq_some htoF32
  rw [htoF32, F32.eq_of_fields_and_sign (hfields.trans hsame) (hneg.trans hsign)]

end Sys2Proof
end
